-- ==== Sys2Proof/Word.lean ====
section
/-! DEFINITION. The machine's words: bytes of the bus, 64-bit registers, 128-bit operands, 32-bit seed words (10_state.md, section 3). -/

namespace Sys2Proof

/-- One byte lane of the host bus (R73). -/
abbrev Byte := BitVec 8

/-- A host-visible register, and a command word (R72, R100). -/
abbrev Word := BitVec 64

/-- A 128-bit operand or result (R74, R260). -/
abbrev U128 := BitVec 128

/-- One word of the seed-word FIFO (R40). -/
abbrev SeedWord := BitVec 32

end Sys2Proof
end

