-- ==== Sys2Proof/Config.lean ====
section
/-! DEFINITION. The elaboration-time parameters (00_scope.md R7), the named presets (R9), and the free values. -/

namespace Sys2Proof

/-- The configuration record of R7. Derived parameters (`K_L`, `K_P`, `SEEDQ_DEPTH`) are computed in
`Machine/Params.lean`. The constraints are `Config.wf` in `WellFormed.lean`. -/
structure Config where
  /-- `W_L`, LFC word bits. -/
  wL : Nat
  /-- `S_L`, LFC short lag. -/
  sL : Nat
  /-- `R_L`, LFC long lag. -/
  rL : Nat
  /-- `W_P`, PHX word bits. -/
  wP : Nat
  /-- `N_P`, PHX word count. -/
  nP : Nat
  /-- `R_P`, PHX round count. -/
  rP : Nat
  /-- `CONST_P[0..N_P-1]`, PHX constants pack. -/
  constP : List Nat
  /-- `BASE`, bus address of the register window (R71). -/
  base : Nat
deriving DecidableEq, Repr

namespace Config

/-- `LFC_DEFAULT_SEED` (R7): the one legal value. -/
def lfcDefaultSeed : Nat := 19780503

/-- `PHX_DEFAULT_SEED` (R7): the one legal value. -/
def phxDefaultSeed : Nat := 20111115

/-- The `philox4x32` constants (R9). -/
def philox4x32Consts : List Nat := [0xCD9E8D57, 0x9E3779B9, 0xD2511F53, 0xBB67AE85]

/-- The `philox4x64` constants (R9). -/
def philox4x64Consts : List Nat :=
  [0xCA5A826395121157, 0x9E3779B97F4A7C15, 0xD2E7470EE14C6C93, 0xBB67AE8584CAA73B]

/-- `ranlux24_base` beside `philox4x32` (R9). -/
def ranlux24Philox32 : Config :=
  { wL := 24, sL := 10, rL := 24, wP := 32, nP := 4, rP := 10, constP := philox4x32Consts, base := 0 }

/-- `ranlux48_base` beside `philox4x64` (R9). -/
def ranlux48Philox64 : Config :=
  { wL := 48, sL := 5, rL := 12, wP := 64, nP := 4, rP := 10, constP := philox4x64Consts, base := 0 }

/-- `test16` (R9) beside `philox4x32`. -/
def test16Philox32 : Config :=
  { wL := 16, sL := 2, rL := 4, wP := 32, nP := 4, rP := 10, constP := philox4x32Consts, base := 0 }

/-- The configuration `State.reset` carries. DESIGN CHOICE, log entry 1: the spec fixes the parameters at
elaboration (R57) and names no configuration as the block's own. -/
def atReset : Config := ranlux24Philox32

/-- FREE VALUE, log entry 4: the data that the k-th host read outside the register window returns. Such an access
never reaches the block (R71), and the spec says nothing of what answers it (R374). -/
opaque freeValue : Nat → Nat

end Config
end Sys2Proof
end

