-- ==== Sys2Proof/Syntax.lean ====
section
/-! DEFINITION. Syntax: the commands (30_encoding.md R102), the register names (20_memory.md R72), the error codes
(60_exceptions.md R320), and the host's program forms (30_encoding.md R112 to R114). -/

namespace Sys2Proof

/-- `INST`: which of the two instances of a generator unit (R101, R45, R47). -/
inductive Inst where
  | i0
  | i1
deriving DecidableEq, Repr

/-- `VAR`: 0 = literal, 1 = corrected (R3, R101). -/
inductive Variant where
  | literal
  | corrected
deriving DecidableEq, Repr

/-- A command: one constructor per row of the opcode map R102, with the fields that the opcode admits. A field an
opcode does not admit has no place here, so every term is a legal command. -/
inductive Instr where
  | nop
  | seedqFlush
  | lfcSeed (n : Inst) (v : Variant)
  | lfcSeedseq (n : Inst) (v : Variant)
  | lfcNext (n : Inst)
  | lfcBack (n : Inst)
  | lfcDiscard (n : Inst)
  | lfcEq
  | lfcMin
  | lfcMax
  | phxSeed (n : Inst)
  | phxSeedseq (n : Inst)
  | phxNext (n : Inst) (v : Variant)
  | phxDiscard (n : Inst) (v : Variant)
  | phxEq
  | phxMin
  | phxMax
  | phxMulhilo
  | u128Add
  | u128Sub
  | u128Shl
  | u128Shr
  | u128Mul
  | u128Mod
  | u128Le
  | u128Ge
deriving DecidableEq, Repr

/-- The mnemonics of R102: a command without its qualifiers. -/
inductive Mnem where
  | nop | seedqFlush
  | lfcSeed | lfcSeedseq | lfcNext | lfcBack | lfcDiscard | lfcEq | lfcMin | lfcMax
  | phxSeed | phxSeedseq | phxNext | phxDiscard | phxEq | phxMin | phxMax | phxMulhilo
  | u128Add | u128Sub | u128Shl | u128Shr | u128Mul | u128Mod | u128Le | u128Ge
deriving DecidableEq, Repr

/-- The fields of a 64-bit command word, unread (R101). -/
structure CmdFields where
  op : BitVec 8
  inst : BitVec 1
  var : BitVec 1
  rsv : BitVec 54
deriving DecidableEq, Repr

/-- Why a command word is illegal (R104): each of the four grounds under its own name, the reserved and the zero
opcode apart. -/
inductive DecodeError where
  | reservedBits
  | zeroOpcode
  | reservedOpcode
  | instNotAdmitted
  | varNotAdmitted
deriving DecidableEq, Repr

/-- The registers of the window (R72, R44). -/
inductive Reg where
  | cmd | status | arg0Lo | arg0Hi | arg1Lo | arg1Hi | resLo | resHi | seedq | seedqCount | seeded
  | cfgVersion | cfgLfcW | cfgLfcS | cfgLfcR | cfgLfcSeedn | cfgLfcDefseed
  | cfgPhxW | cfgPhxN | cfgPhxR | cfgPhxSeedn | cfgPhxDefseed
  | cfgPhxConst0 | cfgPhxConst1 | cfgPhxConst2 | cfgPhxConst3 | cfgSeedqDepth
deriving DecidableEq, Repr

/-- The errors the block can record (R320). -/
inductive ErrCode where
  | illegal | busy | unseeded | seedqUnderflow | seedqOverflow | modZero | noPred | bus
deriving DecidableEq, Repr

/-! ## The host's program (R112 to R114) -/

/-- A command as an assembler reads it: the mnemonic with the qualifiers that were written (R112). -/
structure CmdForm where
  mnemonic : Mnem
  variant : Option Variant
  inst : Option Inst
deriving DecidableEq, Repr

/-- A host variable: `$t`, or the element of the family `$t[...]` that the variable `idx` selects
(95_test_vectors.md P4 writes `$y[$n]`). Names are numbers. -/
inductive VarRef where
  | var (k : Nat)
  | elem (base idx : Nat)
deriving DecidableEq, Repr

/-- A host-side value (R10: exact naturals; log entry 12). `cat` is `hi ‖ lo` of two 64-bit values, `bits` is `v[hi:lo]`. -/
inductive HExpr where
  | lit (v : Nat)
  | var (r : VarRef)
  | add (a b : HExpr)
  | cat (hi lo : HExpr)
  | bits (hi lo : Nat) (v : HExpr)
deriving DecidableEq, Repr

/-- A host-side condition of a branch (R114). -/
inductive HCond where
  | eq (a b : HExpr)
  | ne (a b : HExpr)
deriving DecidableEq, Repr

/-- What a host program does once assembled: bus accesses of any width at any address (R12, R117), host-side
computation, and host-side branches (R114). Branch targets are places in the program. -/
inductive HostOp where
  | memRead (addr width : Nat) (dst : VarRef)
  | memWrite (addr width : Nat) (v : HExpr)
  | set (dst : VarRef) (v : HExpr)
  | goto (target : Nat)
  | ifGoto (c : HCond) (target : Nat)
deriving DecidableEq, Repr

/-- Which 128-bit operand `wr128` writes. -/
inductive ArgSel where
  | arg0
  | arg1
deriving DecidableEq, Repr

/-- The pseudo-instructions of R113 and the branches of R114. A branch names the place of a pseudo-instruction.
`raw` is a bus access written out (R117). -/
inductive Pseudo where
  | wr (r : Reg) (v : HExpr)
  | rd (r : Reg) (dst : VarRef)
  | cmd (c : CmdForm)
  | wr128 (k : ArgSel) (v : HExpr)
  | rd128 (lo hi : VarRef)
  | push (w : HExpr)
  | wait (tmp : Nat)
  | clrerr
  | set (dst : VarRef) (v : HExpr)
  | goto (label : Nat)
  | ifGoto (c : HCond) (label : Nat)
  | rawRead (offset width : Nat) (dst : VarRef)
  | rawWrite (offset width : Nat) (v : HExpr)
deriving DecidableEq, Repr

/-- Who may move next (R30, R360): the host, the block, the platform asserting reset, or nobody (R371: the time between
an issue and its perform is unbounded; R373: the host need not move). -/
inductive Turn where
  | host
  | block
  | reset
  | idle
deriving DecidableEq, Repr

end Sys2Proof
end

