-- ==== Sys2Proof/WellFormed.lean ====
section
/-! DEFINITION. What is well formed: a configuration (00_scope.md R7, R8), a command word (30_encoding.md R102, R104)
and a command form (R112). The opcode map stands here as R102 prints it, so that the decoder, which is written
apart from it, can be held against it. A term of `Instr` has no ill-formed case. -/

namespace Sys2Proof

/-! ## Configurations (R7) -/

namespace Config

/-- `1 ≤ W_L ≤ 64`. -/
def okLfcWidth (c : Config) : Bool := decide (1 ≤ c.wL) && decide (c.wL ≤ 64)

/-- `1 ≤ S_L < R_L`. -/
def okLags (c : Config) : Bool := decide (1 ≤ c.sL) && decide (c.sL < c.rL)

/-- `1 ≤ W_P ≤ 64`. -/
def okPhxWidth (c : Config) : Bool := decide (1 ≤ c.wP) && decide (c.wP ≤ 64)

/-- `N_P` is 2 or 4. -/
def okPhxCount (c : Config) : Bool := c.nP == 2 || c.nP == 4

/-- `R_P ≥ 1`. -/
def okPhxRounds (c : Config) : Bool := decide (1 ≤ c.rP)

/-- `N_P` constants, each below `2^W_P`. -/
def okConsts (c : Config) : Bool := c.constP.length == c.nP && c.constP.all fun v => decide (v < 2 ^ c.wP)

/-- `BASE` is a multiple of 256 (R71). -/
def okBase (c : Config) : Bool := c.base % 256 == 0

/-- R8: "A model states the constraints as a well-formedness predicate on the configuration record." -/
def wf (c : Config) : Bool :=
  c.okLfcWidth && c.okLags && c.okPhxWidth && c.okPhxCount && c.okPhxRounds && c.okConsts && c.okBase

end Config

/-! ## Command words (R102, R104) -/

/-- One row of R102: the opcode and which of INST and VAR it admits. -/
structure OpRow where
  op : Nat
  usesInst : Bool
  usesVar : Bool
deriving DecidableEq, Repr

/-- The control and LFC rows of R102. -/
def opRowsLfc : List OpRow :=
  [⟨0x01, false, false⟩, ⟨0x02, false, false⟩, ⟨0x10, true, true⟩, ⟨0x11, true, true⟩, ⟨0x12, true, false⟩,
   ⟨0x13, true, false⟩, ⟨0x14, true, false⟩, ⟨0x15, false, false⟩, ⟨0x16, false, false⟩, ⟨0x17, false, false⟩]

/-- The PHX rows of R102. -/
def opRowsPhx : List OpRow :=
  [⟨0x20, true, false⟩, ⟨0x21, true, false⟩, ⟨0x22, true, true⟩, ⟨0x23, true, true⟩, ⟨0x24, false, false⟩,
   ⟨0x25, false, false⟩, ⟨0x26, false, false⟩, ⟨0x27, false, false⟩]

/-- The XU rows of R102. -/
def opRowsXu : List OpRow :=
  [⟨0x30, false, false⟩, ⟨0x31, false, false⟩, ⟨0x32, false, false⟩, ⟨0x33, false, false⟩, ⟨0x34, false, false⟩,
   ⟨0x35, false, false⟩, ⟨0x36, false, false⟩, ⟨0x37, false, false⟩]

/-- The opcode map R102, all 26 rows. -/
def opRows : List OpRow := opRowsLfc ++ opRowsPhx ++ opRowsXu

/-- A legal command word (R104, the contrary of its four grounds): RSV is 0, and some row has this opcode, admits
INST if INST = 1, and admits VAR if VAR = 1. -/
def CmdFields.legal (f : CmdFields) : Bool :=
  f.rsv == 0 && opRows.any fun row =>
    row.op == f.op.toNat && (f.inst == 0 || row.usesInst) && (f.var == 0 || row.usesVar)

/-! ## Command forms (R112) -/

/-- Which mnemonics admit INST (R102). -/
def Mnem.usesInst : Mnem → Bool
  | .lfcSeed | .lfcSeedseq | .lfcNext | .lfcBack | .lfcDiscard => true
  | .phxSeed | .phxSeedseq | .phxNext | .phxDiscard => true
  | .nop | .seedqFlush | .lfcEq | .lfcMin | .lfcMax | .phxEq | .phxMin | .phxMax | .phxMulhilo => false
  | .u128Add | .u128Sub | .u128Shl | .u128Shr | .u128Mul | .u128Mod | .u128Le | .u128Ge => false

/-- Which mnemonics admit VAR (R102, R105). -/
def Mnem.usesVar : Mnem → Bool
  | .lfcSeed | .lfcSeedseq | .phxNext | .phxDiscard => true
  | .nop | .seedqFlush | .lfcNext | .lfcBack | .lfcDiscard | .lfcEq | .lfcMin | .lfcMax => false
  | .phxSeed | .phxSeedseq | .phxEq | .phxMin | .phxMax | .phxMulhilo => false
  | .u128Add | .u128Sub | .u128Shl | .u128Shr | .u128Mul | .u128Mod | .u128Le | .u128Ge => false

/-- R112: a qualifier is required on every opcode that admits its field and forbidden on all others. -/
def CmdForm.wf (c : CmdForm) : Bool :=
  c.variant.isSome == c.mnemonic.usesVar && c.inst.isSome == c.mnemonic.usesInst

end Sys2Proof
end

