-- ==== Sys2Proof/Decode.lean ====
section
/-! DEFINITION. Byte order (20_memory.md R73), the decoder of command words (30_encoding.md R100 to R104), total on
any bytes and refusing by name, and the encoder (R103). -/

namespace Sys2Proof

/-! ## Byte order (R73) -/

/-- `n` bytes of a value, the least significant first. -/
def leBytes : Nat → Nat → List Byte
  | 0, _ => []
  | n + 1, v => BitVec.ofNat 8 v :: leBytes n (v / 256)

/-- The value of bytes, the least significant first. -/
def leNat : List Byte → Nat
  | [] => 0
  | b :: rest => b.toNat + 256 * leNat rest

/-! ## Fields (R101) -/

/-- OP is bits 7:0, INST bit 8, VAR bit 9, RSV bits 63:10. -/
def fieldsOf (w : Word) : CmdFields :=
  { op := w.extractLsb' 0 8
    inst := w.extractLsb' 8 1
    var := w.extractLsb' 9 1
    rsv := w.extractLsb' 10 54 }

/-- INST: 0 = instance 0, 1 = instance 1. -/
def Inst.ofBit (b : BitVec 1) : Inst := if b = 1#1 then .i1 else .i0

/-- The INST bit of an instance. -/
def Inst.bit : Inst → Nat
  | .i0 => 0
  | .i1 => 1

/-- VAR: 0 = literal, 1 = corrected. -/
def Variant.ofBit (b : BitVec 1) : Variant := if b = 1#1 then .corrected else .literal

/-- The VAR bit of a variant. -/
def Variant.bit : Variant → Nat
  | .literal => 0
  | .corrected => 1

/-! ## The decoder -/

/-- The opcode map R102, read from OP to mnemonic. -/
def Mnem.ofOp (op : BitVec 8) : Option Mnem :=
  match op.toNat with
  | 0x01 => some .nop
  | 0x02 => some .seedqFlush
  | 0x10 => some .lfcSeed
  | 0x11 => some .lfcSeedseq
  | 0x12 => some .lfcNext
  | 0x13 => some .lfcBack
  | 0x14 => some .lfcDiscard
  | 0x15 => some .lfcEq
  | 0x16 => some .lfcMin
  | 0x17 => some .lfcMax
  | 0x20 => some .phxSeed
  | 0x21 => some .phxSeedseq
  | 0x22 => some .phxNext
  | 0x23 => some .phxDiscard
  | 0x24 => some .phxEq
  | 0x25 => some .phxMin
  | 0x26 => some .phxMax
  | 0x27 => some .phxMulhilo
  | 0x30 => some .u128Add
  | 0x31 => some .u128Sub
  | 0x32 => some .u128Shl
  | 0x33 => some .u128Shr
  | 0x34 => some .u128Mul
  | 0x35 => some .u128Mod
  | 0x36 => some .u128Le
  | 0x37 => some .u128Ge
  | _ => none

/-- The command of a mnemonic with the fields it admits. -/
def Mnem.instr (m : Mnem) (n : Inst) (v : Variant) : Instr :=
  match m with
  | .nop => .nop
  | .seedqFlush => .seedqFlush
  | .lfcSeed => .lfcSeed n v
  | .lfcSeedseq => .lfcSeedseq n v
  | .lfcNext => .lfcNext n
  | .lfcBack => .lfcBack n
  | .lfcDiscard => .lfcDiscard n
  | .lfcEq => .lfcEq
  | .lfcMin => .lfcMin
  | .lfcMax => .lfcMax
  | .phxSeed => .phxSeed n
  | .phxSeedseq => .phxSeedseq n
  | .phxNext => .phxNext n v
  | .phxDiscard => .phxDiscard n v
  | .phxEq => .phxEq
  | .phxMin => .phxMin
  | .phxMax => .phxMax
  | .phxMulhilo => .phxMulhilo
  | .u128Add => .u128Add
  | .u128Sub => .u128Sub
  | .u128Shl => .u128Shl
  | .u128Shr => .u128Shr
  | .u128Mul => .u128Mul
  | .u128Mod => .u128Mod
  | .u128Le => .u128Le
  | .u128Ge => .u128Ge

/-- R104 on the fields, each ground under its own name. -/
def decodeFields (f : CmdFields) : Except DecodeError Instr :=
  if f.rsv ≠ 0#54 then .error .reservedBits
  else
    match Mnem.ofOp f.op with
    | none => .error (if f.op = 0#8 then .zeroOpcode else .reservedOpcode)
    | some m =>
      if f.inst = 1#1 ∧ m.usesInst = false then .error .instNotAdmitted
      else if f.var = 1#1 ∧ m.usesVar = false then .error .varNotAdmitted
      else .ok (m.instr (Inst.ofBit f.inst) (Variant.ofBit f.var))

/-- R100: "A decoder reads the whole word at once." -/
def decode (w : Word) : Except DecodeError Instr := decodeFields (fieldsOf w)

/-- The decoder on bytes as the bus carries them: one command word is eight bytes, least significant first (R73,
R100); no other number of bytes is a command. -/
def decodeBytes (bytes : List Byte) : Option Instr :=
  if bytes.length = 8 then
    match decode (BitVec.ofNat 64 (leNat bytes)) with
    | .ok i => some i
    | .error _ => none
  else none

/-- The host's question: the instruction of a word numbered as the opcode table numbers it. Every command is one
64-bit word, so a value of `nbits` bits that does not fit one is no command. -/
def decodeTableWord (nbits w : Nat) : Option Instr :=
  if w % 2 ^ nbits < 2 ^ 64 then decodeBytes (leBytes 8 (w % 2 ^ nbits)) else none

/-! ## The encoder (R103) -/

/-- OP(m): the opcode map R102, read from mnemonic to OP. -/
def Mnem.op : Mnem → Nat
  | .nop => 0x01
  | .seedqFlush => 0x02
  | .lfcSeed => 0x10
  | .lfcSeedseq => 0x11
  | .lfcNext => 0x12
  | .lfcBack => 0x13
  | .lfcDiscard => 0x14
  | .lfcEq => 0x15
  | .lfcMin => 0x16
  | .lfcMax => 0x17
  | .phxSeed => 0x20
  | .phxSeedseq => 0x21
  | .phxNext => 0x22
  | .phxDiscard => 0x23
  | .phxEq => 0x24
  | .phxMin => 0x25
  | .phxMax => 0x26
  | .phxMulhilo => 0x27
  | .u128Add => 0x30
  | .u128Sub => 0x31
  | .u128Shl => 0x32
  | .u128Shr => 0x33
  | .u128Mul => 0x34
  | .u128Mod => 0x35
  | .u128Le => 0x36
  | .u128Ge => 0x37

/-- The mnemonic of a command. -/
def Instr.mnem : Instr → Mnem
  | .nop => .nop
  | .seedqFlush => .seedqFlush
  | .lfcSeed _ _ => .lfcSeed
  | .lfcSeedseq _ _ => .lfcSeedseq
  | .lfcNext _ => .lfcNext
  | .lfcBack _ => .lfcBack
  | .lfcDiscard _ => .lfcDiscard
  | .lfcEq => .lfcEq
  | .lfcMin => .lfcMin
  | .lfcMax => .lfcMax
  | .phxSeed _ => .phxSeed
  | .phxSeedseq _ => .phxSeedseq
  | .phxNext _ _ => .phxNext
  | .phxDiscard _ _ => .phxDiscard
  | .phxEq => .phxEq
  | .phxMin => .phxMin
  | .phxMax => .phxMax
  | .phxMulhilo => .phxMulhilo
  | .u128Add => .u128Add
  | .u128Sub => .u128Sub
  | .u128Shl => .u128Shl
  | .u128Shr => .u128Shr
  | .u128Mul => .u128Mul
  | .u128Mod => .u128Mod
  | .u128Le => .u128Le
  | .u128Ge => .u128Ge

/-- The instance a command names, when its opcode admits INST. -/
def Instr.inst? : Instr → Option Inst
  | .lfcSeed n _ | .lfcSeedseq n _ | .lfcNext n | .lfcBack n | .lfcDiscard n => some n
  | .phxSeed n | .phxSeedseq n | .phxNext n _ | .phxDiscard n _ => some n
  | .nop | .seedqFlush | .lfcEq | .lfcMin | .lfcMax | .phxEq | .phxMin | .phxMax | .phxMulhilo => none
  | .u128Add | .u128Sub | .u128Shl | .u128Shr | .u128Mul | .u128Mod | .u128Le | .u128Ge => none

/-- The variant a command names, when its opcode admits VAR. -/
def Instr.var? : Instr → Option Variant
  | .lfcSeed _ v | .lfcSeedseq _ v | .phxNext _ v | .phxDiscard _ v => some v
  | .nop | .seedqFlush | .lfcNext _ | .lfcBack _ | .lfcDiscard _ | .lfcEq | .lfcMin | .lfcMax => none
  | .phxSeed _ | .phxSeedseq _ | .phxEq | .phxMin | .phxMax | .phxMulhilo => none
  | .u128Add | .u128Sub | .u128Shl | .u128Shr | .u128Mul | .u128Mod | .u128Le | .u128Ge => none

/-- `enc = OP(m) + 0x100·n + 0x200·v` (R103), with n, v 0 where the opcode does not admit them. -/
def encode (i : Instr) : Word :=
  BitVec.ofNat 64
    (i.mnem.op + 0x100 * (match i.inst? with | some n => n.bit | none => 0)
      + 0x200 * (match i.var? with | some v => v.bit | none => 0))

end Sys2Proof
end

