-- ==== Sys2Proof/Machine/State.lean ====
section
/-! DEFINITION. The machine's state as plain data (10_state.md), the reasons it can stop, and the state after reset
(R53 to R55, R361). -/

namespace Sys2Proof.Machine

/-- Two like things, one for each instance of a generator unit (R45, R47: NUM_INST = 2). -/
structure Pair (α : Type) where
  i0 : α
  i1 : α
deriving DecidableEq, Repr

/-- The engine state of an LFC instance (R45). Slots are exact naturals (R10, R140); `x[j] < 2^W_L` and `i < R_L` are
invariants (R46), stated in `Safety.lean`. -/
structure LfcState where
  x : List Nat
  i : Nat
  carry : Bool
deriving DecidableEq, Repr

/-- An LFC instance: its engine state and its `seeded` flag (R45, R51). -/
structure LfcInst where
  seeded : Bool
  st : LfcState
deriving DecidableEq, Repr

/-- The engine state of a PHX instance (R47): counter `X`, key `K`, cached block `Y`, cursor `j`. Words are exact
naturals; their bounds are invariants (R48), stated in `Safety.lean`. -/
structure PhxState where
  X : List Nat
  K : List Nat
  Y : List Nat
  j : Nat
deriving DecidableEq, Repr

/-- A PHX instance: its engine state and its `seeded` flag (R47, R51). -/
structure PhxInst where
  seeded : Bool
  st : PhxState
deriving DecidableEq, Repr

/-- PEND (R41): the command between issue and perform, with the operands and seed words latched at issue. `cmd` is
what `op`, `inst` and `var` encode: only a decoded, legal command is ever latched (R107; log entry 5). -/
structure Pending where
  cmd : Instr
  a : U128
  b : U128
  words : List SeedWord
deriving DecidableEq, Repr

/-- The host agent: its assembled program, its place in it, and its variables, a list of (name, value) with names
strictly rising and no value 0; an unlisted variable reads 0 (R113, R114; log entry 3). -/
structure HostAgent where
  prog : List HostOp
  pc : Nat
  vars : List (Nat × Nat)
  /-- The host makes no progress of its own once the schedule is used up (R373; log entry 2). -/
  stalls : Bool
  /-- The host fault of R77: the host has made a bus error since its program was loaded (log entry 17). -/
  busFault : Bool
deriving DecidableEq, Repr

/-- The whole machine. BUSY is `pend.isSome`; SEEDED and SEEDQ_COUNT are views (R36, R37, R39). -/
structure State where
  /-- Elaboration parameters: constant, not state (R57; log entry 1). -/
  cfg : Config
  /-- ARG0_LO (R33). -/
  arg0Lo : Word
  /-- ARG0_HI (R33). -/
  arg0Hi : Word
  /-- ARG1_LO (R33). -/
  arg1Lo : Word
  /-- ARG1_HI (R33). -/
  arg1Hi : Word
  /-- RES_LO (R34). -/
  resLo : Word
  /-- RES_HI (R34). -/
  resHi : Word
  /-- STATUS.ERR (R36). -/
  err : Bool
  /-- STATUS.EOVF (R36). -/
  eovf : Bool
  /-- STATUS.ECODE (R36, R320). -/
  ecode : BitVec 8
  /-- PEND, and BUSY: a command is pending or none is (R41, R36). -/
  pend : Option Pending
  /-- SQ, the seed-word FIFO, oldest word first (R40). -/
  seedq : List SeedWord
  /-- The LFC instances (R45). -/
  lfc : Pair LfcInst
  /-- The PHX instances (R47). -/
  phx : Pair PhxInst
  /-- The host agent (R30, R114); not block state. -/
  host : HostAgent
  /-- The scheduler's next choices (R30; log entry 2). -/
  turns : List Turn
  /-- The model's own counter of free values (log entry 4). -/
  freeCtr : Nat
deriving DecidableEq, Repr

/-- Why a step can stop with a fault. -/
inductive Fault where
  /-- Raised by LFC.SEED and LFC.SEEDSEQ, corrected, when a warm-up backward step meets a state with no predecessor:
  R176, U7 and R338 call for exactly this fault. Safe: the spec forbids picking a predecessor. -/
  | warmupNoPredecessor
  /-- Raised by a perform whose issue-time check (R109) does not hold of the latched command: no command can be
  pending in such a state (R109, R110), and the spec gives the perform no effect there. Safe: no run reaches it. -/
  | checkBypassed
deriving DecidableEq, Repr

/-- Why the model does not accept an input. -/
inductive Refusal where
  /-- Raised by `exec` for an instruction that has no meaning yet. Safe. -/
  | notModelled (mnemonic : String)
  /-- Raised by `step`: the configuration breaks R7, so there is no such hardware (R8, R337). Safe. -/
  | illFormedConfig
  /-- Raised by the assembler: the variant qualifier is missing (R112). Safe. -/
  | missingVariant (m : Mnem)
  /-- Raised by the assembler: a variant qualifier on an opcode that does not admit VAR (R112). Safe. -/
  | extraVariant (m : Mnem)
  /-- Raised by the assembler: the instance qualifier is missing (R112). Safe. -/
  | missingInst (m : Mnem)
  /-- Raised by the assembler: an instance qualifier on an opcode that does not admit INST (R112). Safe. -/
  | extraInst (m : Mnem)
  /-- Raised by the assembler: the text writes no command form (R112). Safe. -/
  | notACommand (text : String)
deriving DecidableEq, Repr

/-- What every transition answers. -/
abbrev Result := Host.Outcome State Fault Refusal

/-- R55: an LFC instance after reset. -/
def LfcInst.reset (c : Config) : LfcInst :=
  { seeded := false, st := { x := List.replicate c.rL 0, i := 0, carry := false } }

/-- R55: a PHX instance after reset. -/
def PhxInst.reset (c : Config) : PhxInst :=
  { seeded := false
    st := { X := List.replicate c.nP 0, K := List.replicate (c.nP / 2) 0, Y := List.replicate c.nP 0, j := 0 } }

/-- R361: the state after reset of the block that was elaborated with the parameters `c`, with no host program. -/
def State.resetOf (c : Config) : State :=
  { cfg := c
    arg0Lo := 0, arg0Hi := 0, arg1Lo := 0, arg1Hi := 0, resLo := 0, resHi := 0
    err := false, eovf := false, ecode := 0
    pend := none, seedq := []
    lfc := { i0 := LfcInst.reset c, i1 := LfcInst.reset c }
    phx := { i0 := PhxInst.reset c, i1 := PhxInst.reset c }
    host := { prog := [], pc := 0, vars := [], stalls := false, busFault := false }
    turns := [], freeCtr := 0 }

/-- The machine right after reset (R361), in the configuration of log entry 1. -/
def State.reset : State := State.resetOf Config.atReset

end Sys2Proof.Machine
end

