-- ==== Sys2Proof/Machine/Operands.lean ====
section
/-! DEFINITION. Operand assembly (30_encoding.md R106, 20_memory.md R74): the 128-bit operands from their halves, and
what each command reads from the latched copy. No operand is sign-extended or scaled. -/

namespace Sys2Proof

/-- `HI ‖ LO` (R74, R260). -/
def U128.ofHalves (hi lo : Word) : U128 := hi ++ lo

/-- Bits 127:64. -/
def U128.hi (v : U128) : Word := v.extractLsb' 64 64

/-- Bits 63:0. -/
def U128.lo (v : U128) : Word := v.extractLsb' 0 64

namespace Machine

/-- `A = ARG0_HI ‖ ARG0_LO`, as an issue latches it. -/
def State.opA (s : State) : U128 := U128.ofHalves s.arg0Hi s.arg0Lo

/-- `B = ARG1_HI ‖ ARG1_LO`, as an issue latches it. -/
def State.opB (s : State) : U128 := U128.ofHalves s.arg1Hi s.arg1Lo

/-- `RES = RES_HI ‖ RES_LO` (R34). -/
def State.res (s : State) : U128 := U128.ofHalves s.resHi s.resLo

/-- seed (LFC.SEED, PHX.SEED) = `A[63:0]`, `A[127:64]` ignored. -/
def Pending.seed (p : Pending) : Nat := (U128.lo p.a).toNat

/-- count (LFC.DISCARD, PHX.DISCARD) = `A[63:0]`, `A[127:64]` ignored. -/
def Pending.count (p : Pending) : Nat := (U128.lo p.a).toNat

/-- The first mulhilo operand (PHX.MULHILO) = `A[63:0] mod 2^W_P`. -/
def Pending.mulA (c : Config) (p : Pending) : Nat := (U128.lo p.a).toNat % 2 ^ c.wP

/-- The second mulhilo operand (PHX.MULHILO) = `B[63:0] mod 2^W_P`. -/
def Pending.mulB (c : Config) (p : Pending) : Nat := (U128.lo p.b).toNat % 2 ^ c.wP

/-- The instance of a pair that INST selects. -/
def Pair.get {α : Type} (p : Pair α) : Inst → α
  | .i0 => p.i0
  | .i1 => p.i1

/-- The pair with the instance that INST selects replaced. -/
def Pair.set {α : Type} (p : Pair α) (n : Inst) (a : α) : Pair α :=
  match n with
  | .i0 => { p with i0 := a }
  | .i1 => { p with i1 := a }

/-- A W-bit result as `RES <- zext_128(r)` writes it (R111). -/
def zext128 (r : Nat) : U128 := BitVec.ofNat 128 r

/-- `1 if the condition holds, else 0`, as a comparison writes it to RES (R157, R217, R268, R269). -/
def boolRes (b : Bool) : U128 := if b then 1 else 0

end Machine
end Sys2Proof
end

