-- ==== Sys2Proof/Machine/Flags.lean ====
section
/-! DEFINITION. The block has no arithmetic flags (10_state.md R32). Its status bits are the STATUS fields (R36); here
are STATUS and SEEDED (R37) as a host reads them, and the error codes (60_exceptions.md R320). -/

namespace Sys2Proof

/-- The code STATUS.ECODE records (R320). -/
def ErrCode.code : ErrCode → BitVec 8
  | .illegal => 0x01
  | .busy => 0x02
  | .unseeded => 0x03
  | .seedqUnderflow => 0x04
  | .seedqOverflow => 0x05
  | .modZero => 0x06
  | .noPred => 0x07
  | .bus => 0x08

namespace Machine

/-- STATUS.BUSY: a command is pending (R36, R41). -/
def State.busy (s : State) : Bool := s.pend.isSome

/-- STATUS: BUSY bit 0, ERR bit 1, EOVF bit 2, ECODE bits 15:8, every other bit 0 (R36). -/
def State.statusWord (s : State) : Word :=
  BitVec.ofNat 64 (s.busy.toNat + 2 * s.err.toNat + 4 * s.eovf.toNat + 256 * s.ecode.toNat)

/-- SEEDED: bit 0 LFC[0], bit 1 LFC[1], bit 2 PHX[0], bit 3 PHX[1], bits 63:4 read 0 (R37). -/
def State.seededWord (s : State) : Word :=
  BitVec.ofNat 64
    (s.lfc.i0.seeded.toNat + 2 * s.lfc.i1.seeded.toNat + 4 * s.phx.i0.seeded.toNat + 8 * s.phx.i1.seeded.toNat)

end Machine
end Sys2Proof
end

