-- ==== Sys2Proof/Machine/Params.lean ====
section
/-! DEFINITION. The derived parameters of 00_scope.md R7 and R13. -/

namespace Sys2Proof.Config

/-- `M_L = 2^W_L` (R13, R140). -/
abbrev modL (c : Config) : Nat := 2 ^ c.wL

/-- `K_L = ⌊W_L/32⌋ + 1` (R7, C4). -/
abbrev kL (c : Config) : Nat := c.wL / 32 + 1

/-- `K_P = ⌊(W_P−1)/32⌋ + 1` (R7, C4). -/
abbrev kP (c : Config) : Nat := (c.wP - 1) / 32 + 1

/-- `LFC_SEEDN = R_L·K_L` (R13). -/
def lfcSeedN (c : Config) : Nat := c.rL * c.kL

/-- `PHX_SEEDN = (N_P/2)·K_P` (R13). -/
def phxSeedN (c : Config) : Nat := c.nP / 2 * c.kP

/-- `SEEDQ_DEPTH = max(R_L·K_L, (N_P/2)·K_P)` (R7). -/
def seedqDepth (c : Config) : Nat := max c.lfcSeedN c.phxSeedN

/-- The round multiplier `Mul_k = C[2k]` (R201). -/
def roundMul (c : Config) (k : Nat) : Nat := c.constP.getD (2 * k) 0

/-- The key increment `Inc_k = C[2k+1]` (R201). -/
def keyInc (c : Config) (k : Nat) : Nat := c.constP.getD (2 * k + 1) 0

end Sys2Proof.Config
end

