-- ==== Sys2Proof/Machine/LfcEngine.lean ====
section
/-! DEFINITION. The LFC unit's functions (40_lfc.md R140 to R151): the seeding generator, packing, the forward step,
the predecessor test, the backward step, and construction. Arithmetic is exact, over naturals and integers (R140, C5). -/

namespace Sys2Proof.Machine

/-- Slot `x[j]`. -/
abbrev LfcState.slot (st : LfcState) (j : Nat) : Nat := st.x.getD j 0

/-! ## Seeding (R141 to R145) -/

/-- One LCG step (R141). -/
def lcgStep (g : Nat) : Nat := g * 40014 % 2147483563

/-- `LcgInit(sd)` (R142): the zero test is on the full seed, then 32 bits, then the modulus, then 0 becomes 1. -/
def lcgInit (sd : Nat) : Nat :=
  let sd := if sd = 0 then Config.lfcDefaultSeed else sd
  let g := sd % 2 ^ 32 % 2147483563
  if g = 0 then 1 else g

/-- The next `n` outputs of the LCG from state `g`; each step outputs the new state (R141). -/
def lcgOutputs : Nat → Nat → List SeedWord
  | 0, _ => []
  | n + 1, g => BitVec.ofNat 32 (lcgStep g) :: lcgOutputs n (lcgStep g)

/-- `LcgWords(sd)`: `LFC_SEEDN` words from an integer seed (R143). -/
def lcgWords (c : Config) (sd : Nat) : List SeedWord := lcgOutputs c.lfcSeedN (lcgInit sd)

/-- `Σ_t z[t]·2^(32·t)`: 32-bit words as one number, the first least significant (R144, R87). -/
def packWords : List SeedWord → Nat
  | [] => 0
  | z :: rest => z.toNat + 2 ^ 32 * packWords rest

/-- Packing (R144): group j of `k` words gives word j, reduced mod `2^w`. PHX key words use it too (R211). -/
def packGroups (w k n : Nat) (z : List SeedWord) : List Nat :=
  (List.range n).map fun j => packWords ((z.drop (j * k)).take k) % 2 ^ w

/-! ## The forward step (R146) -/

/-- `short_index`: `(i + r − s)` if `i < s`, else `(i − s)`. -/
def lfcShort (c : Config) (i : Nat) : Nat := if i < c.sL then i + c.rL - c.sL else i - c.sL

/-- `Fwd(st)`: the output and the next state. -/
def lfcFwd (c : Config) (st : LfcState) : Nat × LfcState :=
  let temp := st.slot st.i + st.carry.toNat
  let xs := st.slot (lfcShort c st.i)
  let y := if temp ≤ xs then xs - temp else c.modL - temp + xs
  (y, { x := st.x.set st.i y, i := (st.i + 1) % c.rL, carry := !decide (temp ≤ xs) })

/-- `n` forward steps, outputs dropped (R156). -/
def lfcFwdN (c : Config) (n : Nat) (st : LfcState) : LfcState := (fun st => (lfcFwd c st).2)^[n] st

/-! ## The backward step (R148, R149) -/

/-- `(a − d) mod r` for `a < r` and `d ≤ r`. -/
def lfcPrev (c : Config) (a d : Nat) : Nat := (a + c.rL - d) % c.rL

/-- `t = x[sh'] − x[i'] + c·M`, exact (R148). -/
def lfcBackSum (c : Config) (st : LfcState) : Int :=
  let i := lfcPrev c st.i 1
  (st.slot (lfcPrev c i c.sL) : Int) - st.slot i + st.carry.toNat * c.modL

/-- `HasPred(st)`: `0 ≤ t ≤ M` (R148). -/
def lfcHasPred (c : Config) (st : LfcState) : Bool :=
  decide (0 ≤ lfcBackSum c st) && decide (lfcBackSum c st ≤ c.modL)

/-- The walk back through the lag window (R149): the distances `d, d+1, …`, `fuel` of them; the sign of the first
nonzero forward difference, or `none` when every compared pair is equal. -/
def lfcWalk (c : Config) (st : LfcState) (i : Nat) : Nat → Nat → Option Bool
  | 0, _ => none
  | fuel + 1, d =>
    let jj := lfcPrev c i d
    let js := lfcPrev c jj c.sL
    if st.slot jj = st.slot js then lfcWalk c st i fuel (d + 1)
    else some (decide (st.slot js < st.slot jj))

/-- `cp`, the carry before the step that is undone (R149); `i` is the index after the retreat. -/
def lfcBackCarry (c : Config) (st : LfcState) (i : Nat) (t : Int) : Bool :=
  if t = 0 then false
  else if t = c.modL then true
  else
    match lfcWalk c st i (c.rL - c.sL - 1) 1 with
    | some cp => cp
    | none => decide (t ≤ st.slot ((i + c.sL) % c.rL))

/-- `Back(st)`, defined when `HasPred(st)` holds (R149): the undone output and the state before it. -/
def lfcBack (c : Config) (st : LfcState) : Option (Nat × LfcState) :=
  if lfcHasPred c st then
    let i := lfcPrev c st.i 1
    let t := lfcBackSum c st
    let cp := lfcBackCarry c st i t
    some (st.slot i, { x := st.x.set i (t - cp.toNat).toNat, i := i, carry := cp })
  else none

/-- `n` backward steps, outputs dropped; `none` when one of them meets a state with no predecessor. -/
def lfcBackN (c : Config) : Nat → LfcState → Option LfcState
  | 0, st => some st
  | n + 1, st =>
    match lfcBack c st with
    | some (_, st') => lfcBackN c n st'
    | none => none

/-! ## Construction (R150, R151) -/

/-- The literal construction: packing, then the initial carry and index (R144, R145). -/
def lfcLiteral (c : Config) (z : List SeedWord) : LfcState :=
  let x := packGroups c.wL c.kL c.rL z
  { x := x, i := 0, carry := x.getD (c.rL - 1) 0 == 0 }

/-- `Construct(z, var)` (R151): corrected adds `r` forward and `r` backward steps. `none` is U7, a warm-up backward
step with no predecessor. -/
def lfcConstruct (c : Config) (z : List SeedWord) : Variant → Option LfcState
  | .literal => some (lfcLiteral c z)
  | .corrected => lfcBackN c c.rL (lfcFwdN c c.rL (lfcLiteral c z))

end Sys2Proof.Machine
end

