-- ==== Sys2Proof/Machine/PhxEngine.lean ====
section
/-! DEFINITION. The PHX unit's functions (41_philox.md R200 to R212): the double-width product, the four rounds, the
block, the counter, seeding and the next function. Lane arithmetic is exact and then reduced as written. -/

namespace Sys2Proof.Machine

/-- `mulhilo(a, b)`: the high and low halves of the exact `2w`-bit product (R200, C8). -/
def mulhilo (c : Config) (a b : Nat) : Nat × Nat := (a * b / 2 ^ c.wP, a * b % 2 ^ c.wP)

/-- Round key `key_k(q) = (K[k] + q·Inc_k) mod 2^w` (R202). -/
def roundKey (c : Config) (K : List Nat) (q k : Nat) : Nat := (K.getD k 0 + q * c.keyInc k) % 2 ^ c.wP

/-- Corrected round, n = 2 (R203). -/
def roundCor2 (c : Config) (key : Nat → Nat) (Z : List Nat) : List Nat :=
  let (hi, lo) := mulhilo c (Z.getD 0 0) (c.roundMul 0)
  [hi ^^^ key 0 ^^^ Z.getD 1 0, lo]

/-- Corrected round, n = 4 (R204). -/
def roundCor4 (c : Config) (key : Nat → Nat) (Z : List Nat) : List Nat :=
  let (hi0, lo0) := mulhilo c (Z.getD 2 0) (c.roundMul 0)
  let (hi1, lo1) := mulhilo c (Z.getD 0 0) (c.roundMul 1)
  [hi0 ^^^ key 0 ^^^ Z.getD 1 0, lo0, hi1 ^^^ key 1 ^^^ Z.getD 3 0, lo1]

/-- Literal round, n = 2 (R205, C1: the fold is with the original lane 0). -/
def roundLit2 (c : Config) (key : Nat → Nat) (Z : List Nat) : List Nat :=
  let (hi, lo) := mulhilo c (Z.getD 1 0) (c.roundMul 0)
  [lo, hi ^^^ key 0 ^^^ Z.getD 0 0]

/-- Literal round, n = 4 (R206). -/
def roundLit4 (c : Config) (key : Nat → Nat) (Z : List Nat) : List Nat :=
  let (hi0, lo0) := mulhilo c (Z.getD 3 0) (c.roundMul 0)
  let (hi1, lo1) := mulhilo c (Z.getD 1 0) (c.roundMul 1)
  [lo0, hi0 ^^^ key 0 ^^^ Z.getD 0 0, lo1, hi1 ^^^ key 1 ^^^ Z.getD 2 0]

/-- `Round(var, n, key, Z)` (R207). `N_P` is 2 or 4 (R7). -/
def phxRound (c : Config) (v : Variant) (key : Nat → Nat) (Z : List Nat) : List Nat :=
  match v with
  | .corrected => if c.nP = 2 then roundCor2 c key Z else roundCor4 c key Z
  | .literal => if c.nP = 2 then roundLit2 c key Z else roundLit4 c key Z

/-- Rounds `q, q+1, …`, `fuel` of them. -/
def phxRounds (c : Config) (v : Variant) (K : List Nat) : Nat → Nat → List Nat → List Nat
  | 0, _, Z => Z
  | fuel + 1, q, Z => phxRounds c v K fuel (q + 1) (phxRound c v (roundKey c K q) Z)

/-- `Block(var, K, X)`: `R_P` rounds on a copy of the counter (R207). -/
def phxBlock (c : Config) (v : Variant) (K X : List Nat) : List Nat := phxRounds c v K c.rP 0 X

/-- `Σ_m X[m]·2^(w·m)`: the counter's value, word 0 least significant (R47, R87). -/
def ctrValue (w : Nat) : List Nat → Nat
  | [] => 0
  | d :: rest => d + 2 ^ w * ctrValue w rest

/-- The `n` words of a value, word 0 least significant. -/
def ctrWords (w : Nat) : Nat → Nat → List Nat
  | 0, _ => []
  | n + 1, v => v % 2 ^ w :: ctrWords w n (v / 2 ^ w)

/-- `Inc(X)` (R209): plus one modulo `2^(w·n)`. -/
def phxInc (c : Config) (X : List Nat) : List Nat :=
  ctrWords c.wP c.nP ((ctrValue c.wP X + 1) % 2 ^ (c.wP * c.nP))

/-- The state after seeding with the key `K`: counter 0, cache 0, cursor `n − 1` (R210, D28). -/
def phxSeeded (c : Config) (K : List Nat) : PhxState :=
  { X := List.replicate c.nP 0, K := K, Y := List.replicate c.nP 0, j := c.nP - 1 }

/-- `SeedInt(sd)` (R210): the first key word is the seed masked to `w` bits, the others 0. -/
def phxSeedInt (c : Config) (sd : Nat) : PhxState :=
  phxSeeded c (sd % 2 ^ c.wP :: List.replicate (c.nP / 2 - 1) 0)

/-- `SeedSeq(z)` (R211): the key words packed from the seed words. -/
def phxSeedSeq (c : Config) (z : List SeedWord) : PhxState :=
  phxSeeded c (packGroups c.wP c.kP (c.nP / 2) z)

/-- `Next(var, st)` (R212): the output word and the next state. -/
def phxNext (c : Config) (v : Variant) (st : PhxState) : Nat × PhxState :=
  if st.j + 1 = c.nP then
    let Y := phxBlock c v st.K st.X
    (Y.getD 0 0, { X := phxInc c st.X, K := st.K, Y := Y, j := 0 })
  else
    (st.Y.getD (st.j + 1) 0, { st with j := st.j + 1 })

/-- `n` next calls, outputs dropped (R216). -/
def phxNextN (c : Config) (v : Variant) (n : Nat) (st : PhxState) : PhxState := (fun st => (phxNext c v st).2)^[n] st

end Sys2Proof.Machine
end

