-- ==== Sys2Proof/Machine/Ops.lean ====
section
/-! DEFINITION. The shared operations: writing registers, engine state and the FIFO; recording an error (the block's
one way of taking an exception, 60_exceptions.md R324) and clearing the record (the return from it, R325); and the
life cycle of a command, issue and perform (30_encoding.md R107 to R110). -/

namespace Sys2Proof.Machine

namespace State

/-! ## Updates -/

def setArg0Lo (s : State) (v : Word) : State := { s with arg0Lo := v }

def setArg0Hi (s : State) (v : Word) : State := { s with arg0Hi := v }

def setArg1Lo (s : State) (v : Word) : State := { s with arg1Lo := v }

def setArg1Hi (s : State) (v : Word) : State := { s with arg1Hi := v }

/-- `RES <- v`: both halves in one transition (R11, R34). -/
def setRes (s : State) (v : U128) : State := { s with resLo := U128.lo v, resHi := U128.hi v }

def setPend (s : State) (p : Option Pending) : State := { s with pend := p }

def setSeedq (s : State) (q : List SeedWord) : State := { s with seedq := q }

/-- Replaces LFC instance `n`. -/
def setLfc (s : State) (n : Inst) (v : LfcInst) : State := { s with lfc := s.lfc.set n v }

/-- Replaces PHX instance `n`. -/
def setPhx (s : State) (n : Inst) (v : PhxInst) : State := { s with phx := s.phx.set n v }

def setHost (s : State) (h : HostAgent) : State := { s with host := h }

def setTurns (s : State) (ts : List Turn) : State := { s with turns := ts }

def setFreeCtr (s : State) (k : Nat) : State := { s with freeCtr := k }

/-! ## The error record (R324, R325) -/

/-- `raise Error(code)`: the first error since the last clear is kept, a later one sets EOVF (R324, R326). It writes
nothing else (R322). -/
def raise (s : State) (e : ErrCode) : State :=
  if s.err then { s with eovf := true } else { s with err := true, ecode := e.code }

/-- A bus error (R77): E_BUS is recorded, no register and no engine state changes, and the access is the host's fault,
which stays marked whatever becomes of the record (R336; log entry 17). -/
def busError (s : State) : State := (s.raise .bus).setHost { s.host with busFault := true }

/-- The clear of ERR, EOVF and ECODE together: the only return from an error (R325). -/
def clearError (s : State) : State := { s with err := false, eovf := false, ecode := 0 }

/-- Platform reset (R360, R361): every element of the block takes its reset value and a pending command is abandoned
(R54); the host agent and the schedule are not the block's and stay (log entry 14). -/
def resetBlock (s : State) : State :=
  { State.resetOf s.cfg with host := s.host, turns := s.turns, freeCtr := s.freeCtr }

/-! ## The seed-word FIFO (R38, R108) -/

/-- A push: appended at the tail when there is room, else dropped with E_SEEDQ_OVERFLOW, whether or not BUSY is 1
(R38). -/
def pushSeed (s : State) (w : SeedWord) : State :=
  if s.seedq.length < s.cfg.seedqDepth then s.setSeedq (s.seedq ++ [w]) else s.raise .seedqOverflow

end State

/-- How many FIFO words a command takes at issue (R107, R108). -/
def wordsNeeded (c : Config) : Instr → Nat
  | .lfcSeedseq _ _ => c.lfcSeedN
  | .phxSeedseq _ => c.phxSeedN
  | .nop | .seedqFlush | .lfcSeed _ _ | .lfcNext _ | .lfcBack _ | .lfcDiscard _ | .lfcEq | .lfcMin | .lfcMax => 0
  | .phxSeed _ | .phxNext _ _ | .phxDiscard _ _ | .phxEq | .phxMin | .phxMax | .phxMulhilo => 0
  | .u128Add | .u128Sub | .u128Shl | .u128Shr | .u128Mul | .u128Mod | .u128Le | .u128Ge => 0

/-- `SeedWords(N)`: the oldest N words and what is left, or nothing when the FIFO holds fewer (R108). -/
def seedWords (n : Nat) (q : List SeedWord) : Option (List SeedWord × List SeedWord) :=
  if q.length < n then none else some (q.take n, q.drop n)

/-! ## Life cycle -/

/-- The first failing check among 1 to 3 of R109; `b` is the operand B. Check 4 is `seedWords`. -/
def issueCheck (i : Instr) (b : U128) (s : State) : Option ErrCode :=
  match i with
  | .lfcNext n | .lfcDiscard n => if (s.lfc.get n).seeded then none else some .unseeded
  | .lfcBack n =>
    if (s.lfc.get n).seeded then
      if lfcHasPred s.cfg (s.lfc.get n).st then none else some .noPred
    else some .unseeded
  | .lfcEq => if s.lfc.i0.seeded && s.lfc.i1.seeded then none else some .unseeded
  | .phxNext n _ | .phxDiscard n _ => if (s.phx.get n).seeded then none else some .unseeded
  | .phxEq => if s.phx.i0.seeded && s.phx.i1.seeded then none else some .unseeded
  | .u128Mod => if b = 0#128 then some .modZero else none
  | .nop | .seedqFlush | .lfcSeed _ _ | .lfcSeedseq _ _ | .lfcMin | .lfcMax => none
  | .phxSeed _ | .phxSeedseq _ | .phxMin | .phxMax | .phxMulhilo => none
  | .u128Add | .u128Sub | .u128Shl | .u128Shr | .u128Mul | .u128Le | .u128Ge => none

/-- Issue (R107) of a legal command while none is pending: the checks, then the latch; an error is recorded and
nothing else happens (R322, R323). -/
def State.issue (s : State) (i : Instr) : State :=
  match issueCheck i s.opB s with
  | some e => s.raise e
  | none =>
    match seedWords (wordsNeeded s.cfg i) s.seedq with
    | none => s.raise .seedqUnderflow
    | some (words, rest) => (s.setSeedq rest).setPend (some { cmd := i, a := s.opA, b := s.opB, words := words })

/-- The conditions under which R107 lets the command `i` become pending as `p`: the checks hold of the latched
operands, and the seed words it takes are there. -/
def performable (i : Instr) (p : Pending) (s : State) : Bool :=
  (issueCheck i p.b s).isNone && decide (wordsNeeded s.cfg i ≤ p.words.length)

/-- `STATUS.BUSY <- 0`: the end of a perform (R110). -/
def State.complete (s : State) : State := s.setPend none

/-- A command in its two-step life cycle: while none is pending it issues (R107), while one is pending it performs
(R110) by its effect `eff`. A perform outside the conditions of its issue does not exist (log entry 7). -/
def command (i : Instr) (eff : Pending → State → Result) (s : State) : Result :=
  match s.pend with
  | none => .next (s.issue i)
  | some p => if performable i p s then eff p s else .fault .checkBypassed

/-- A perform that writes RES and nothing else (R111). -/
def answer (v : U128) (s : State) : Result := .next (s.setRes v).complete

/-- A perform that gives LFC instance `n` the state `st` (R152, R153): `seeded <- 1`; RES unchanged. -/
def seedLfc (n : Inst) (st : Option LfcState) (s : State) : Result :=
  match st with
  | some st => .next (s.setLfc n { seeded := true, st := st }).complete
  | none => .fault .warmupNoPredecessor

/-- A perform that gives PHX instance `n` the state `st` (R213, R214): `seeded <- 1`; RES unchanged. -/
def seedPhx (n : Inst) (st : PhxState) (s : State) : Result :=
  .next (s.setPhx n { seeded := true, st := st }).complete

/-- A perform that steps LFC instance `n` to `st`; its `seeded` flag stays (R51). -/
def State.stepLfc (s : State) (n : Inst) (st : LfcState) : State :=
  s.setLfc n { seeded := (s.lfc.get n).seeded, st := st }

/-- A perform that steps PHX instance `n` to `st`; its `seeded` flag stays (R51). -/
def State.stepPhx (s : State) (n : Inst) (st : PhxState) : State :=
  s.setPhx n { seeded := (s.phx.get n).seeded, st := st }

end Sys2Proof.Machine
end

