-- ==== Sys2Proof/Machine/Control.lean ====
section
/-! DEFINITION. The control commands (43_control.md). -/

namespace Sys2Proof.Machine

/-- NOP (R300): nothing but the life cycle. -/
def execNop (s : State) : Result := command .nop (fun _ s => .next s.complete) s

/-- SEEDQ.FLUSH (R301): `SQ <- []`, at perform. -/
def execSeedqFlush (s : State) : Result := command .seedqFlush (fun _ s => .next (s.setSeedq []).complete) s

end Sys2Proof.Machine
end

