-- ==== Sys2Proof/Machine/Lfc.lean ====
section
/-! DEFINITION. The LFC commands (40_lfc.md, section 2). -/

namespace Sys2Proof.Machine

/-- LFC.SEED (R152). -/
def execLfcSeed (n : Inst) (v : Variant) (s : State) : Result :=
  command (.lfcSeed n v) (fun p s => seedLfc n (lfcConstruct s.cfg (lcgWords s.cfg p.seed) v) s) s

/-- LFC.SEEDSEQ (R153). -/
def execLfcSeedseq (n : Inst) (v : Variant) (s : State) : Result :=
  command (.lfcSeedseq n v) (fun p s => seedLfc n (lfcConstruct s.cfg p.words v) s) s

/-- LFC.NEXT (R154). -/
def execLfcNext (n : Inst) (s : State) : Result :=
  command (.lfcNext n)
    (fun _ s =>
      let (y, st) := lfcFwd s.cfg (s.lfc.get n).st
      answer (zext128 y) (s.stepLfc n st)) s

/-- LFC.BACK (R155). -/
def execLfcBack (n : Inst) (s : State) : Result :=
  command (.lfcBack n)
    (fun _ s =>
      match lfcBack s.cfg (s.lfc.get n).st with
      | some (y, st) => answer (zext128 y) (s.stepLfc n st)
      | none => .fault .checkBypassed) s

/-- LFC.DISCARD (R156): the whole loop is one perform step. -/
def execLfcDiscard (n : Inst) (s : State) : Result :=
  command (.lfcDiscard n) (fun p s => .next (s.stepLfc n (lfcFwdN s.cfg p.count (s.lfc.get n).st)).complete) s

/-- LFC.EQ (R157): the triples `(x, i, carry)` match exactly. -/
def execLfcEq (s : State) : Result :=
  command .lfcEq (fun _ s => answer (boolRes (decide (s.lfc.i0.st = s.lfc.i1.st))) s) s

/-- LFC.MIN (R158). -/
def execLfcMin (s : State) : Result := command .lfcMin (fun _ s => answer 0 s) s

/-- LFC.MAX (R159, R177). -/
def execLfcMax (s : State) : Result := command .lfcMax (fun _ s => answer (zext128 (2 ^ s.cfg.wL - 1)) s) s

end Sys2Proof.Machine
end

