-- ==== Sys2Proof/Machine/Phx.lean ====
section
/-! DEFINITION. The PHX commands (41_philox.md, section 2). -/

namespace Sys2Proof.Machine

/-- PHX.SEED (R213). -/
def execPhxSeed (n : Inst) (s : State) : Result :=
  command (.phxSeed n) (fun p s => seedPhx n (phxSeedInt s.cfg p.seed) s) s

/-- PHX.SEEDSEQ (R214). -/
def execPhxSeedseq (n : Inst) (s : State) : Result :=
  command (.phxSeedseq n) (fun p s => seedPhx n (phxSeedSeq s.cfg p.words) s) s

/-- PHX.NEXT (R215). -/
def execPhxNext (n : Inst) (v : Variant) (s : State) : Result :=
  command (.phxNext n v)
    (fun _ s =>
      let (y, st) := phxNext s.cfg v (s.phx.get n).st
      answer (zext128 y) (s.stepPhx n st)) s

/-- PHX.DISCARD (R216): the whole loop is one perform step. -/
def execPhxDiscard (n : Inst) (v : Variant) (s : State) : Result :=
  command (.phxDiscard n v) (fun p s => .next (s.stepPhx n (phxNextN s.cfg v p.count (s.phx.get n).st)).complete) s

/-- PHX.EQ (R217): `(X, K, Y, j)` all match. -/
def execPhxEq (s : State) : Result :=
  command .phxEq (fun _ s => answer (boolRes (decide (s.phx.i0.st = s.phx.i1.st))) s) s

/-- PHX.MIN (R218). -/
def execPhxMin (s : State) : Result := command .phxMin (fun _ s => answer 0 s) s

/-- PHX.MAX (R219). -/
def execPhxMax (s : State) : Result := command .phxMax (fun _ s => answer (zext128 (2 ^ s.cfg.wP - 1)) s) s

/-- PHX.MULHILO (R220): `RES_HI <- hi`, `RES_LO <- lo`. -/
def execPhxMulhilo (s : State) : Result :=
  command .phxMulhilo
    (fun p s =>
      let (hi, lo) := mulhilo s.cfg (p.mulA s.cfg) (p.mulB s.cfg)
      answer (U128.ofHalves (BitVec.ofNat 64 hi) (BitVec.ofNat 64 lo)) s) s

end Sys2Proof.Machine
end

