-- ==== Sys2Proof/Machine/Xu.lean ====
section
/-! DEFINITION. The XU commands (42_u128.md). The unit has no state; each command is one assignment to RES (R261). -/

namespace Sys2Proof.Machine

/-- `(A · 2^B) mod 2^128` when `B < 128`, else 0 (R264). -/
def xuShl (a b : U128) : U128 := if b < 128#128 then a <<< b.toNat else 0

/-- `⌊A / 2^B⌋` when `B < 128`, else 0 (R265). -/
def xuShr (a b : U128) : U128 := if b < 128#128 then a >>> b.toNat else 0

/-- U128.ADD (R262). -/
def execU128Add (s : State) : Result := command .u128Add (fun p s => answer (p.a + p.b) s) s

/-- U128.SUB (R263). -/
def execU128Sub (s : State) : Result := command .u128Sub (fun p s => answer (p.a - p.b) s) s

/-- U128.SHL (R264). -/
def execU128Shl (s : State) : Result := command .u128Shl (fun p s => answer (xuShl p.a p.b) s) s

/-- U128.SHR (R265). -/
def execU128Shr (s : State) : Result := command .u128Shr (fun p s => answer (xuShr p.a p.b) s) s

/-- U128.MUL (R266): the low 128 bits. -/
def execU128Mul (s : State) : Result := command .u128Mul (fun p s => answer (p.a * p.b) s) s

/-- U128.MOD (R267). B = 0 never performs: E_MOD_ZERO at issue (R109). -/
def execU128Mod (s : State) : Result := command .u128Mod (fun p s => answer (p.a % p.b) s) s

/-- U128.LE (R268), unsigned. -/
def execU128Le (s : State) : Result := command .u128Le (fun p s => answer (boolRes (decide (p.a ≤ p.b))) s) s

/-- U128.GE (R269), unsigned. -/
def execU128Ge (s : State) : Result := command .u128Ge (fun p s => answer (boolRes (decide (p.b ≤ p.a))) s) s

end Sys2Proof.Machine
end

