-- ==== Sys2Proof/Machine/Dispatch.lean ====
section
/-! DEFINITION. One arm per command: `exec i s` is the transition that the command `i` makes in `s`, its issue while no
command is pending (30_encoding.md R107) and its perform while one is (R110). -/

namespace Sys2Proof.Machine

def exec (i : Instr) (s : State) : Host.Outcome State Fault Refusal :=
  match i with
  | .nop => Sys2Proof.Machine.execNop s
  | .seedqFlush => Sys2Proof.Machine.execSeedqFlush s
  | .lfcSeed n v => Sys2Proof.Machine.execLfcSeed n v s
  | .lfcSeedseq n v => Sys2Proof.Machine.execLfcSeedseq n v s
  | .lfcNext n => Sys2Proof.Machine.execLfcNext n s
  | .lfcBack n => Sys2Proof.Machine.execLfcBack n s
  | .lfcDiscard n => Sys2Proof.Machine.execLfcDiscard n s
  | .lfcEq => Sys2Proof.Machine.execLfcEq s
  | .lfcMin => Sys2Proof.Machine.execLfcMin s
  | .lfcMax => Sys2Proof.Machine.execLfcMax s
  | .phxSeed n => Sys2Proof.Machine.execPhxSeed n s
  | .phxSeedseq n => Sys2Proof.Machine.execPhxSeedseq n s
  | .phxNext n v => Sys2Proof.Machine.execPhxNext n v s
  | .phxDiscard n v => Sys2Proof.Machine.execPhxDiscard n v s
  | .phxEq => Sys2Proof.Machine.execPhxEq s
  | .phxMin => Sys2Proof.Machine.execPhxMin s
  | .phxMax => Sys2Proof.Machine.execPhxMax s
  | .phxMulhilo => Sys2Proof.Machine.execPhxMulhilo s
  | .u128Add => Sys2Proof.Machine.execU128Add s
  | .u128Sub => Sys2Proof.Machine.execU128Sub s
  | .u128Shl => Sys2Proof.Machine.execU128Shl s
  | .u128Shr => Sys2Proof.Machine.execU128Shr s
  | .u128Mul => Sys2Proof.Machine.execU128Mul s
  | .u128Mod => Sys2Proof.Machine.execU128Mod s
  | .u128Le => Sys2Proof.Machine.execU128Le s
  | .u128Ge => Sys2Proof.Machine.execU128Ge s

end Sys2Proof.Machine
end

