-- ==== Sys2Proof/Machine/Bus.lean ====
section
/-! DEFINITION. The register window (20_memory.md): the register map, legal accesses and bus errors, what a read
returns and what a write does. -/

namespace Sys2Proof

/-- The window offset of a register (R72, R44). -/
def Reg.offset : Reg → Nat
  | .cmd => 0x000
  | .status => 0x008
  | .arg0Lo => 0x010
  | .arg0Hi => 0x018
  | .arg1Lo => 0x020
  | .arg1Hi => 0x028
  | .resLo => 0x030
  | .resHi => 0x038
  | .seedq => 0x040
  | .seedqCount => 0x048
  | .seeded => 0x050
  | .cfgVersion => 0x080
  | .cfgLfcW => 0x088
  | .cfgLfcS => 0x090
  | .cfgLfcR => 0x098
  | .cfgLfcSeedn => 0x0A0
  | .cfgLfcDefseed => 0x0A8
  | .cfgPhxW => 0x0B0
  | .cfgPhxN => 0x0B8
  | .cfgPhxR => 0x0C0
  | .cfgPhxSeedn => 0x0C8
  | .cfgPhxDefseed => 0x0D0
  | .cfgPhxConst0 => 0x0D8
  | .cfgPhxConst1 => 0x0E0
  | .cfgPhxConst2 => 0x0E8
  | .cfgPhxConst3 => 0x0F0
  | .cfgSeedqDepth => 0x0F8

/-- The register at an offset; `none` at the reserved offsets 0x058 to 0x07F (R42), at misaligned ones (R76) and
outside the window. -/
def Reg.ofOffset (off : Nat) : Option Reg :=
  match off with
  | 0x000 => some .cmd
  | 0x008 => some .status
  | 0x010 => some .arg0Lo
  | 0x018 => some .arg0Hi
  | 0x020 => some .arg1Lo
  | 0x028 => some .arg1Hi
  | 0x030 => some .resLo
  | 0x038 => some .resHi
  | 0x040 => some .seedq
  | 0x048 => some .seedqCount
  | 0x050 => some .seeded
  | 0x080 => some .cfgVersion
  | 0x088 => some .cfgLfcW
  | 0x090 => some .cfgLfcS
  | 0x098 => some .cfgLfcR
  | 0x0A0 => some .cfgLfcSeedn
  | 0x0A8 => some .cfgLfcDefseed
  | 0x0B0 => some .cfgPhxW
  | 0x0B8 => some .cfgPhxN
  | 0x0C0 => some .cfgPhxR
  | 0x0C8 => some .cfgPhxSeedn
  | 0x0D0 => some .cfgPhxDefseed
  | 0x0D8 => some .cfgPhxConst0
  | 0x0E0 => some .cfgPhxConst1
  | 0x0E8 => some .cfgPhxConst2
  | 0x0F0 => some .cfgPhxConst3
  | 0x0F8 => some .cfgSeedqDepth
  | _ => none

/-- R72's access column: everything but CMD and SEEDQ can be read. -/
def Reg.readable : Reg → Bool
  | .cmd | .seedq => false
  | .status | .arg0Lo | .arg0Hi | .arg1Lo | .arg1Hi | .resLo | .resHi | .seedqCount | .seeded => true
  | .cfgVersion | .cfgLfcW | .cfgLfcS | .cfgLfcR | .cfgLfcSeedn | .cfgLfcDefseed => true
  | .cfgPhxW | .cfgPhxN | .cfgPhxR | .cfgPhxSeedn | .cfgPhxDefseed => true
  | .cfgPhxConst0 | .cfgPhxConst1 | .cfgPhxConst2 | .cfgPhxConst3 | .cfgSeedqDepth => true

/-- R72's access column: CMD, STATUS, the ARG registers and SEEDQ can be written. -/
def Reg.writable : Reg → Bool
  | .cmd | .status | .arg0Lo | .arg0Hi | .arg1Lo | .arg1Hi | .seedq => true
  | .resLo | .resHi | .seedqCount | .seeded => false
  | .cfgVersion | .cfgLfcW | .cfgLfcS | .cfgLfcR | .cfgLfcSeedn | .cfgLfcDefseed => false
  | .cfgPhxW | .cfgPhxN | .cfgPhxR | .cfgPhxSeedn | .cfgPhxDefseed => false
  | .cfgPhxConst0 | .cfgPhxConst1 | .cfgPhxConst2 | .cfgPhxConst3 | .cfgSeedqDepth => false

namespace Machine

/-- The register that a legal read names: 8 bytes wide, at a register's offset, in a direction it allows (R75). -/
def legalRead (off width : Nat) : Option Reg :=
  if width = 8 then (Reg.ofOffset off).filter Reg.readable else none

/-- The register that a legal write names (R75). -/
def legalWrite (off width : Nat) : Option Reg :=
  if width = 8 then (Reg.ofOffset off).filter Reg.writable else none

/-- `BASE` to `BASE + 0xFF` (R70); an access is the block's by its address (R71, log entry 13). -/
def inWindow (c : Config) (addr : Nat) : Bool := decide (c.base ≤ addr) && decide (addr < c.base + 256)

/-- What a read of a register returns (R33, R34, R36, R37, R39, R43, R44). CMD and SEEDQ store nothing (R35, R38).
A value wider than its register reads modulo 2^64 (log entry 16). -/
def readReg (s : State) : Reg → Word
  | .cmd | .seedq => 0
  | .status => s.statusWord
  | .arg0Lo => s.arg0Lo
  | .arg0Hi => s.arg0Hi
  | .arg1Lo => s.arg1Lo
  | .arg1Hi => s.arg1Hi
  | .resLo => s.resLo
  | .resHi => s.resHi
  | .seedqCount => BitVec.ofNat 64 s.seedq.length
  | .seeded => s.seededWord
  | .cfgVersion => 1
  | .cfgLfcW => BitVec.ofNat 64 s.cfg.wL
  | .cfgLfcS => BitVec.ofNat 64 s.cfg.sL
  | .cfgLfcR => BitVec.ofNat 64 s.cfg.rL
  | .cfgLfcSeedn => BitVec.ofNat 64 s.cfg.lfcSeedN
  | .cfgLfcDefseed => BitVec.ofNat 64 Config.lfcDefaultSeed
  | .cfgPhxW => BitVec.ofNat 64 s.cfg.wP
  | .cfgPhxN => BitVec.ofNat 64 s.cfg.nP
  | .cfgPhxR => BitVec.ofNat 64 s.cfg.rP
  | .cfgPhxSeedn => BitVec.ofNat 64 s.cfg.phxSeedN
  | .cfgPhxDefseed => BitVec.ofNat 64 Config.phxDefaultSeed
  | .cfgPhxConst0 => BitVec.ofNat 64 (s.cfg.constP.getD 0 0)
  | .cfgPhxConst1 => BitVec.ofNat 64 (s.cfg.constP.getD 1 0)
  | .cfgPhxConst2 => if s.cfg.nP = 4 then BitVec.ofNat 64 (s.cfg.constP.getD 2 0) else 0
  | .cfgPhxConst3 => if s.cfg.nP = 4 then BitVec.ofNat 64 (s.cfg.constP.getD 3 0) else 0
  | .cfgSeedqDepth => BitVec.ofNat 64 s.cfg.seedqDepth

/-- A write to CMD: the issue step (R107). E_BUSY comes before E_ILLEGAL (R327). -/
def writeCmd (s : State) (w : Word) : Result :=
  if s.busy then .next (s.raise .busy)
  else
    match decode w with
    | .error _ => .next (s.raise .illegal)
    | .ok i => exec i s

/-- A write to STATUS: W1C of the error record through bit 1; every other bit is ignored (R36). -/
def writeStatus (s : State) (v : Word) : State := if v.getLsbD 1 then s.clearError else s

/-- What a write to a register does (R79). A write to a read-only register is a bus error (R77). -/
def writeReg (s : State) (r : Reg) (v : Word) : Result :=
  match r with
  | .cmd => writeCmd s v
  | .status => .next (writeStatus s v)
  | .arg0Lo => .next (s.setArg0Lo v)
  | .arg0Hi => .next (s.setArg0Hi v)
  | .arg1Lo => .next (s.setArg1Lo v)
  | .arg1Hi => .next (s.setArg1Hi v)
  | .seedq => .next (s.pushSeed (v.setWidth 32))
  | .resLo | .resHi | .seedqCount | .seeded => .next (s.busError)
  | .cfgVersion | .cfgLfcW | .cfgLfcS | .cfgLfcR | .cfgLfcSeedn | .cfgLfcDefseed => .next (s.busError)
  | .cfgPhxW | .cfgPhxN | .cfgPhxR | .cfgPhxSeedn | .cfgPhxDefseed => .next (s.busError)
  | .cfgPhxConst0 | .cfgPhxConst1 | .cfgPhxConst2 | .cfgPhxConst3 | .cfgSeedqDepth => .next (s.busError)

/-- `MemRead(addr, width)`: the bytes the host gets and the state after. A bus error returns 0, records
E_BUS and is the host's fault (R77; log entry 17); a read outside the window does not reach the block (R71) and returns a free value (log entry 4). -/
def busRead (s : State) (addr width : Nat) : List Byte × State :=
  if inWindow s.cfg addr then
    match legalRead (addr - s.cfg.base) width with
    | some r => (leBytes 8 (readReg s r).toNat, s)
    | none => (leBytes width 0, s.busError)
  else (leBytes width (Config.freeValue s.freeCtr), s.setFreeCtr (s.freeCtr + 1))

/-- `MemWrite(addr, …)` of the given bytes. A bus error changes nothing but the error record and is the
host's fault (R77); a write outside
the window does not reach the block (R71). -/
def busWrite (s : State) (addr : Nat) (data : List Byte) : Result :=
  if inWindow s.cfg addr then
    match legalWrite (addr - s.cfg.base) data.length with
    | some r => writeReg s r (BitVec.ofNat 64 (leNat data))
    | none => .next (s.busError)
  else .next s

end Machine
end Sys2Proof
end

