-- ==== Sys2Proof/Machine/HostAgent.lean ====
section
/-! DEFINITION. The host agent (10_state.md R30, 30_encoding.md R113, R114): variables, values, conditions, and one
host step, which is one bus access or one host-side action. -/

namespace Sys2Proof.Machine

/-- The value of variable `k`; an unlisted variable reads 0 (log entry 3). -/
def varGet : List (Nat × Nat) → Nat → Nat
  | [], _ => 0
  | (k', v) :: rest, k => if k' = k then v else varGet rest k

/-- Sets variable `k`, keeping names strictly rising and no value 0. -/
def varSet : List (Nat × Nat) → Nat → Nat → List (Nat × Nat)
  | [], k, v => if v = 0 then [] else [(k, v)]
  | (k', v') :: rest, k, v =>
    if k < k' then (if v = 0 then (k', v') :: rest else (k, v) :: (k', v') :: rest)
    else if k = k' then (if v = 0 then rest else (k, v) :: rest)
    else (k', v') :: varSet rest k v

/-- The variable a reference names. -/
def VarRef.name (vars : List (Nat × Nat)) : VarRef → Nat
  | .var k => k
  | .elem b idx => b + varGet vars idx

/-- A host-side value, an exact natural (R10). -/
def HExpr.value (vars : List (Nat × Nat)) : HExpr → Nat
  | .lit v => v
  | .var r => varGet vars (VarRef.name vars r)
  | .add a b => HExpr.value vars a + HExpr.value vars b
  | .cat hi lo => HExpr.value vars hi * 2 ^ 64 + HExpr.value vars lo
  | .bits hi lo v => HExpr.value vars v / 2 ^ lo % 2 ^ (hi + 1 - lo)

/-- Whether a branch is taken (R114). -/
def HCond.holds (vars : List (Nat × Nat)) : HCond → Bool
  | .eq a b => HExpr.value vars a == HExpr.value vars b
  | .ne a b => HExpr.value vars a != HExpr.value vars b

/-- The host moves on to its next operation. -/
def HostAgent.advance (h : HostAgent) : HostAgent := { h with pc := h.pc + 1 }

/-- The host stores a value in a variable. -/
def HostAgent.store (h : HostAgent) (dst : VarRef) (v : Nat) : HostAgent :=
  { h with vars := varSet h.vars (VarRef.name h.vars dst) v }

/-- One host operation (R113, R114, R117). The host has moved on before its access reaches the block. -/
def hostOp (s : State) (op : HostOp) : Result :=
  match op with
  | .memRead addr width dst =>
    let (data, s') := busRead s addr width
    .next (s'.setHost ((s'.host.store dst (leNat data)).advance))
  | .memWrite addr width v =>
    busWrite (s.setHost s.host.advance) addr (leBytes width (HExpr.value s.host.vars v))
  | .set dst v => .next (s.setHost ((s.host.store dst (HExpr.value s.host.vars v)).advance))
  | .goto target => .next (s.setHost { s.host with pc := target })
  | .ifGoto c target =>
    .next (s.setHost (if HCond.holds s.host.vars c then { s.host with pc := target } else s.host.advance))

/-- The host's turn: its next operation, or nothing when its program has ended (R374; log entry 15). -/
def hostStep (s : State) : Result :=
  match s.host.prog[s.host.pc]? with
  | some op => hostOp s op
  | none => .next s

end Sys2Proof.Machine
end

