-- ==== Sys2Proof/Machine/Assembler.lean ====
section
/-! DEFINITION. The assembler (30_encoding.md R112 to R114): command forms, refused by name when a qualifier is
missing or extra, and the expansion of the pseudo-instructions to host bus accesses. -/

namespace Sys2Proof.Machine

/-- The mnemonic as it is written: the lower-case name of R102 (R112). -/
def Mnem.text : Mnem → String
  | .nop => "nop"
  | .seedqFlush => "seedq.flush"
  | .lfcSeed => "lfc.seed"
  | .lfcSeedseq => "lfc.seedseq"
  | .lfcNext => "lfc.next"
  | .lfcBack => "lfc.back"
  | .lfcDiscard => "lfc.discard"
  | .lfcEq => "lfc.eq"
  | .lfcMin => "lfc.min"
  | .lfcMax => "lfc.max"
  | .phxSeed => "phx.seed"
  | .phxSeedseq => "phx.seedseq"
  | .phxNext => "phx.next"
  | .phxDiscard => "phx.discard"
  | .phxEq => "phx.eq"
  | .phxMin => "phx.min"
  | .phxMax => "phx.max"
  | .phxMulhilo => "phx.mulhilo"
  | .u128Add => "u128.add"
  | .u128Sub => "u128.sub"
  | .u128Shl => "u128.shl"
  | .u128Shr => "u128.shr"
  | .u128Mul => "u128.mul"
  | .u128Mod => "u128.mod"
  | .u128Le => "u128.le"
  | .u128Ge => "u128.ge"

/-- The mnemonics of R102, in the order of its rows. -/
def mnems : List Mnem :=
  [.nop, .seedqFlush] ++
  [.lfcSeed, .lfcSeedseq, .lfcNext, .lfcBack, .lfcDiscard, .lfcEq, .lfcMin, .lfcMax] ++
  [.phxSeed, .phxSeedseq, .phxNext, .phxDiscard, .phxEq, .phxMin, .phxMax, .phxMulhilo] ++
  [.u128Add, .u128Sub, .u128Shl, .u128Shr, .u128Mul, .u128Mod, .u128Le, .u128Ge]

/-- The variant qualifier as it is written (R112). -/
def variantText : Option Variant → String
  | none => ""
  | some .literal => ".lit"
  | some .corrected => ".cor"

/-- The instance qualifier as it is written (R112). -/
def instText : Option Inst → String
  | none => ""
  | some .i0 => " i0"
  | some .i1 => " i1"

/-- A command form as it is written: `<mnemonic>[.<variant>] [i<n>]` (R112). -/
def CmdForm.text (f : CmdForm) : String := Mnem.text f.mnemonic ++ variantText f.variant ++ instText f.inst

/-- Every command form with the mnemonic `m`, its qualifiers admitted or not. -/
def formsOf (m : Mnem) : List CmdForm :=
  [none, some .literal, some .corrected].flatMap fun v =>
    [none, some .i0, some .i1].map fun n => { mnemonic := m, variant := v, inst := n }

/-- Every command form. -/
def allForms : List CmdForm := mnems.flatMap formsOf

/-- Reads a command form from its text: the form that is written so (R112). -/
def readCmd (t : String) : Option CmdForm := allForms.find? fun f => CmdForm.text f == t

/-- The variant qualifier: required exactly on opcodes that admit VAR (R112). -/
def checkVariant (m : Mnem) (v : Option Variant) : Except Refusal Variant :=
  match m.usesVar, v with
  | true, some v => .ok v
  | true, none => .error (.missingVariant m)
  | false, some _ => .error (.extraVariant m)
  | false, none => .ok .literal

/-- The instance qualifier: required exactly on opcodes that admit INST (R112). -/
def checkInst (m : Mnem) (n : Option Inst) : Except Refusal Inst :=
  match m.usesInst, n with
  | true, some n => .ok n
  | true, none => .error (.missingInst m)
  | false, some _ => .error (.extraInst m)
  | false, none => .ok .i0

/-- R112: "An assembler refuses a missing or extra qualifier by name, and no qualifier has a default." Where both are
wrong, the refusal names the variant: the model's choice (log entry 20). -/
def assembleCmd (c : CmdForm) : Except Refusal Instr :=
  match checkVariant c.mnemonic c.variant with
  | .error e => .error e
  | .ok v =>
    match checkInst c.mnemonic c.inst with
    | .error e => .error e
    | .ok n => .ok (c.mnemonic.instr n v)

/-- Assembles the text of a command; a text that writes no command form is refused by name, so no reserved opcode can be
written (R112, U10). -/
def assembleText (t : String) : Except Refusal Instr :=
  match readCmd t with
  | some f => assembleCmd f
  | none => .error (.notACommand t)

/-- How many host operations a pseudo-instruction expands to (R113). -/
def Pseudo.size : Pseudo → Nat
  | .wr128 _ _ | .rd128 _ _ | .wait _ => 2
  | .wr _ _ | .rd _ _ | .cmd _ | .push _ | .clrerr | .set _ _ | .goto _ | .ifGoto _ _ => 1
  | .rawRead _ _ _ | .rawWrite _ _ _ => 1

/-- Where the pseudo-instruction at `label` starts once assembled. -/
def labelPlace (ps : List Pseudo) (label : Nat) : Nat := ((ps.take label).map Pseudo.size).sum

/-- `wr R, v` = `MemWrite(BASE + off(R), 8, v)` (R113). -/
def wrOp (base : Nat) (r : Reg) (v : HExpr) : HostOp := .memWrite (base + r.offset) 8 v

/-- `rd R -> $t` = `$t <- MemRead(BASE + off(R), 8)` (R113). -/
def rdOp (base : Nat) (r : Reg) (dst : VarRef) : HostOp := .memRead (base + r.offset) 8 dst

/-- The expansion of one pseudo-instruction that starts at `place` (R113). -/
def expand (base : Nat) (ps : List Pseudo) (place : Nat) : Pseudo → Except Refusal (List HostOp)
  | .wr r v => .ok [wrOp base r v]
  | .rd r dst => .ok [rdOp base r dst]
  | .cmd c =>
    match assembleCmd c with
    | .ok i => .ok [wrOp base .cmd (.lit (encode i).toNat)]
    | .error e => .error e
  | .wr128 .arg0 v => .ok [wrOp base .arg0Lo (.bits 63 0 v), wrOp base .arg0Hi (.bits 127 64 v)]
  | .wr128 .arg1 v => .ok [wrOp base .arg1Lo (.bits 63 0 v), wrOp base .arg1Hi (.bits 127 64 v)]
  | .rd128 lo hi => .ok [rdOp base .resLo lo, rdOp base .resHi hi]
  | .push w => .ok [wrOp base .seedq (.bits 31 0 w)]
  | .wait tmp =>
    .ok [rdOp base .status (.var tmp), .ifGoto (.eq (.bits 0 0 (.var (.var tmp))) (.lit 1)) place]
  | .clrerr => .ok [wrOp base .status (.lit 2)]
  | .set dst v => .ok [.set dst v]
  | .goto label => .ok [.goto (labelPlace ps label)]
  | .ifGoto c label => .ok [.ifGoto c (labelPlace ps label)]
  | .rawRead off width dst => .ok [.memRead (base + off) width dst]
  | .rawWrite off width v => .ok [.memWrite (base + off) width v]

/-- The expansion of the pseudo-instructions `todo`, which start at `place`. -/
def expandAll (base : Nat) (ps : List Pseudo) : Nat → List Pseudo → Except Refusal (List HostOp)
  | _, [] => .ok []
  | place, p :: rest =>
    match expand base ps place p with
    | .error e => .error e
    | .ok ops =>
      match expandAll base ps (place + Pseudo.size p) rest with
      | .error e => .error e
      | .ok more => .ok (ops ++ more)

/-- A host program, assembled for a window at `base`. -/
def assemble (base : Nat) (ps : List Pseudo) : Except Refusal (List HostOp) := expandAll base ps 0 ps

/-- Loading a host program from outside the machine (log entry 9): the host starts at its first operation. A program
with a command form the assembler refuses is refused (R338). -/
def State.load (s : State) (ps : List Pseudo) : Result :=
  match assemble s.cfg.base ps with
  | .ok prog => .next (s.setHost { s.host with prog := prog, pc := 0, vars := [], busFault := false })
  | .error e => .refused e

end Sys2Proof.Machine
end

