-- ==== Sys2Proof/Machine/Schedule.lean ====
section
/-! DEFINITION. Who moves (10_state.md R30) and what a move is: a host step, a block step, or platform reset; and
where a command stands when it is the next thing the machine runs. -/

namespace Sys2Proof.Machine

/-- The block's turn: the perform of the pending command (R110); nothing when none is pending (log entry 15). -/
def blockStep (s : State) : Result :=
  match s.pend with
  | some p => exec p.cmd s
  | none => .next s

/-- One turn. -/
def runTurn (s : State) : Turn → Result
  | .host => hostStep s
  | .block => blockStep s
  | .reset => .next s.resetBlock
  | .idle => .next s

/-- The scheduled turn with the rest of the schedule. Once the schedule is used up: the block whenever a command is
pending, for its perform is weakly fair; else the host, unless it stalls, for nothing assumes its progress (R373; log
entry 2). -/
def State.nextTurn (s : State) : Turn × List Turn :=
  match s.turns with
  | t :: ts => (t, ts)
  | [] => (if s.busy then .block else if s.host.stalls then .idle else .host, [])

/-- The next thing the host does is to write `w` to CMD. -/
def State.hostWritesCmd (s : State) (w : Word) : State :=
  let h := s.host
  let place := min h.pc h.prog.length
  let op := HostOp.memWrite (s.cfg.base + Reg.offset .cmd) 8 (.lit w.toNat)
  (s.setHost { h with prog := h.prog.take place ++ op :: h.prog.drop place, pc := place })

/-- The schedule begins with the turn `t`; a used-up schedule stays as it is where `t` comes next by itself. -/
def State.turnFirst (s : State) (t : Turn) : State :=
  match s.turns with
  | [] => if s.nextTurn.1 = t then s else s.setTurns [t]
  | ts => s.setTurns (t :: ts)

/-- The command word `w` as the next thing the machine runs (log entry 9). The word's issue (R107) is made here, with
no other command in its way: if it goes through, the command is pending and the next step performs it; if it raises,
the issue itself is the command's whole effect, and the next step makes it. -/
def State.placeCommand (s : State) (w : Word) : State :=
  let idle := s.setPend none
  match writeCmd idle w with
  | .next s' => if s'.busy then s'.turnFirst .block else (idle.hostWritesCmd w).turnFirst .host
  | .fault _ => (idle.hostWritesCmd w).turnFirst .host
  | .refused _ => (idle.hostWritesCmd w).turnFirst .host

end Sys2Proof.Machine
end

