-- ==== Sys2Proof/Machine/Step.lean ====
section
/-! DEFINITION. One step of the whole machine: one turn of one agent (10_state.md R30). -/

namespace Sys2Proof.Machine

/-- One step. A configuration that breaks R7 or R71 has no machine (00_scope.md R8, 60_exceptions.md R337; log entry
19). -/
def step (s : State) : Host.Outcome State Fault Refusal :=
  if s.cfg.wf then runTurn (s.setTurns s.nextTurn.2) s.nextTurn.1 else .refused .illFormedConfig

/-- The state in which the very next step runs the command whose bits are `w`, numbered as the opcode table numbers
them (log entry 9). -/
def State.withFetchWord (s : State) (nbits w : Nat) : State := s.placeCommand (BitVec.ofNat 64 (w % 2 ^ nbits))

end Sys2Proof.Machine
end

