-- ==== Sys2Proof/Safety.lean ====
section
/-! DEFINITION. What claims call a good state: the invariants of 10_state.md R46, R48 and R40, the error record of R36,
the pending command of 30_encoding.md R109, the bus-error premise of 60_exceptions.md R336, and the end of a run
(70_reset_and_hazards.md R374). -/

namespace Sys2Proof.Machine

/-- R46: `R_L` slots, each below `2^W_L`, and `i < R_L`. (`carry` is one bit by its type.) -/
def LfcState.wf (c : Config) (st : LfcState) : Bool :=
  st.x.length == c.rL && st.x.all (fun v => decide (v < c.modL)) && decide (st.i < c.rL)

/-- `n` words of `W_P` bits. -/
def phxWordsOk (c : Config) (n : Nat) (ws : List Nat) : Bool :=
  ws.length == n && ws.all fun v => decide (v < 2 ^ c.wP)

/-- R48, first sentence: every word of X, K and Y is below `2^W_P`, and `j < N_P`. -/
def PhxState.wf (c : Config) (st : PhxState) : Bool :=
  phxWordsOk c c.nP st.X && phxWordsOk c (c.nP / 2) st.K && phxWordsOk c c.nP st.Y && decide (st.j < c.nP)

/-- R48: `Y` is the block of the current key and of the counter before its last increment (in whichever variant made
it), once a block has been generated; before that the counter and the cache are 0 and the cursor is at the end
(R210). -/
def PhxState.cacheValid (c : Config) (st : PhxState) : Prop :=
  (st.X = List.replicate c.nP 0 ∧ st.Y = List.replicate c.nP 0 ∧ st.j = c.nP - 1) ∨
    ∃ v prev, phxWordsOk c c.nP prev = true ∧ st.X = phxInc c prev ∧ st.Y = phxBlock c v st.K prev

/-- Names strictly rising, no value 0. -/
def varsOk : List (Nat × Nat) → Bool
  | [] => true
  | [(_, v)] => v != 0
  | (k, v) :: (k', v') :: rest => v != 0 && decide (k < k') && varsOk ((k', v') :: rest)

namespace State

/-- ECODE and EOVF say something only while ERR is 1 (R36), and ECODE then holds a code of R320. -/
def errorRecordOk (s : State) : Bool :=
  if s.err then decide (1 ≤ s.ecode.toNat) && decide (s.ecode.toNat ≤ 8) else !s.eovf && s.ecode == 0

/-- A pending command meets the conditions under which it issued (R109), and its latch holds exactly the seed words it
takes: none, unless it is a `*.SEEDSEQ` (R41, R108). -/
def pendingOk (s : State) : Bool :=
  match s.pend with
  | some p => performable p.cmd p s && p.words.length == wordsNeeded s.cfg p.cmd
  | none => true

/-- The invariant of the whole machine. -/
def Inv (s : State) : Prop :=
  s.cfg.wf = true ∧
  (∀ n, (s.lfc.get n).st.wf s.cfg = true) ∧
  (∀ n, (s.phx.get n).st.wf s.cfg = true) ∧
  s.seedq.length ≤ s.cfg.seedqDepth ∧
  s.errorRecordOk = true ∧
  s.pendingOk = true ∧
  varsOk s.host.vars = true

/-- The premise of R336: the host has made no bus error, whether the error record still shows it or an earlier error or
a clear hides it (log entry 17). -/
def noBusError (s : State) : Bool := !s.host.busFault

/-- The host's next operation is an access in the window that R75 does not allow. -/
def nextOpIsBusError (s : State) : Bool :=
  match s.host.prog[s.host.pc]? with
  | some (.memRead addr width _) => inWindow s.cfg addr && (legalRead (addr - s.cfg.base) width).isNone
  | some (.memWrite addr width _) => inWindow s.cfg addr && (legalWrite (addr - s.cfg.base) width).isNone
  | some (.set _ _) | some (.goto _) | some (.ifGoto _ _) | none => false

/-- The end of a run (R374): the host has executed its last operation and no command is pending. -/
def finished (s : State) : Bool := !s.busy && decide (s.host.prog.length ≤ s.host.pc)

end State

/-- The state an outcome goes on with, if it goes on. -/
def nextState? : Result → Option State
  | .next s => some s
  | .fault _ => none
  | .refused _ => none

/-! ## The terms claims are stated in -/

namespace State

/-- RES holds `r`, the command is done, and nothing else has changed (R111, R110). -/
def answered (s : State) (r : U128) : State := { s with resLo := U128.lo r, resHi := U128.hi r, pend := none }

/-- The command `i` is pending with the operands of the ARG registers and the given seed words, BUSY is 1, and nothing
else has changed (R106, R107). -/
def issued (s : State) (i : Instr) (words : List SeedWord) : State :=
  { s with
    pend := some
      { cmd := i, a := U128.ofHalves s.arg0Hi s.arg0Lo, b := U128.ofHalves s.arg1Hi s.arg1Lo, words := words } }

/-- The state apart from the error record. -/
def withRecord (s : State) (err eovf : Bool) (ecode : BitVec 8) : State :=
  { s with err := err, eovf := eovf, ecode := ecode }

end State

/-- No exception at issue: whenever no command is pending, `i` becomes pending. -/
def IssuesFreely (i : Instr) : Prop := ∀ s : State, s.pend = none → exec i s = .next (s.issued i [])

/-- The RES that the command `i` leaves when it performs with the operands `a` and `b`. -/
def resultOf (i : Instr) (s : State) (a b : U128) : Option U128 :=
  (nextState? (exec i { s with pend := some { cmd := i, a := a, b := b, words := [] } })).map State.res

/-- A command run to its end with nothing in between: its issue, then its perform. -/
def runCommand (i : Instr) (s : State) : Option State :=
  match nextState? (exec i s) with
  | some s' => nextState? (exec i s')
  | none => none

/-- `n` commands `i`, one after the other. -/
def runCommands (i : Instr) : Nat → State → Option State
  | 0, s => some s
  | n + 1, s =>
    match runCommand i s with
    | some s' => runCommands i n s'
    | none => none

/-- Whether the command `i` may touch LFC instance `n` (R50): it names it, or it is LFC.EQ. -/
def namesLfc (i : Instr) (n : Inst) : Bool :=
  match i with
  | .lfcSeed m _ | .lfcSeedseq m _ | .lfcNext m | .lfcBack m | .lfcDiscard m => m == n
  | .lfcEq => true
  | _ => false

/-- Whether the command `i` may touch PHX instance `n` (R50): it names it, or it is PHX.EQ. -/
def namesPhx (i : Instr) (n : Inst) : Bool :=
  match i with
  | .phxSeed m | .phxSeedseq m | .phxNext m _ | .phxDiscard m _ => m == n
  | .phxEq => true
  | _ => false

/-- R111: the commands that leave RES unchanged. -/
def leavesRes : Instr → Bool
  | .nop | .seedqFlush | .lfcSeed _ _ | .lfcSeedseq _ _ | .lfcDiscard _ => true
  | .phxSeed _ | .phxSeedseq _ | .phxDiscard _ _ => true
  | _ => false

/-- The lane swap σ of R234. -/
def swapPairs : List Nat → List Nat
  | a :: b :: rest => b :: a :: swapPairs rest
  | rest => rest

end Sys2Proof.Machine
end

