-- ==== Sys2Proof/Certificates/Slice0/Obligations.lean ====
section
/-! DEFINITION. The statements for the provers: what the rules of spec/ say the machine does. -/

open Sys2Proof Sys2Proof.Machine

/-! ## Encoding -/

/-- R103, R104: a word decodes to a command exactly when it is that command's encoding, so every one of the 2^64 words
is the encoding of one command or of none. -/
def Obligations.DecodeIffEncode : Prop := ∀ (w : Word) (i : Instr), decode w = .ok i ↔ encode i = w

/-- R104: a word is refused exactly when RSV ≠ 0, or no row of R102 has its OP, or it sets a field its opcode does not
admit; and writing such a word to CMD while no command is pending records E_ILLEGAL and does nothing else. -/
def Obligations.IllegalWords : Prop :=
  ∀ w : Word,
    ((∀ i, decode w ≠ .ok i) ↔
      (w.toNat / 2 ^ 10 ≠ 0 ∨
        ∀ row ∈ opRows, row.op = w.toNat % 2 ^ 8 →
          (w.getLsbD 8 = true ∧ row.usesInst = false) ∨ (w.getLsbD 9 = true ∧ row.usesVar = false))) ∧
    ((∀ i, decode w ≠ .ok i) → ∀ s : State, s.pend = none → writeCmd s w = .next (s.raise .illegal))

/-- V80, V81: words of every family written out from R101 to R103, as the eight bytes the bus carries, decode to the
commands they stand for; five illegal ones decode to none. -/
def Obligations.SpecWordsDecode : Prop :=
  decodeBytes [0x01, 0, 0, 0, 0, 0, 0, 0] = some .nop ∧
  decodeBytes [0x10, 0x03, 0, 0, 0, 0, 0, 0] = some (.lfcSeed .i1 .corrected) ∧
  decodeBytes [0x11, 0x01, 0, 0, 0, 0, 0, 0] = some (.lfcSeedseq .i1 .literal) ∧
  decodeBytes [0x14, 0x01, 0, 0, 0, 0, 0, 0] = some (.lfcDiscard .i1) ∧
  decodeBytes [0x22, 0x02, 0, 0, 0, 0, 0, 0] = some (.phxNext .i0 .corrected) ∧
  decodeBytes [0x23, 0x01, 0, 0, 0, 0, 0, 0] = some (.phxDiscard .i1 .literal) ∧
  decodeBytes [0x37, 0, 0, 0, 0, 0, 0, 0] = some .u128Ge ∧
  decodeBytes [0x00, 0, 0, 0, 0, 0, 0, 0] = none ∧
  decodeBytes [0x12, 0x02, 0, 0, 0, 0, 0, 0] = none ∧
  decodeBytes [0x34, 0x01, 0, 0, 0, 0, 0, 0] = none ∧
  decodeBytes [0x01, 0x04, 0, 0, 0, 0, 0, 0] = none ∧
  decodeBytes [0x22, 0, 0, 0, 0, 0, 0, 0x80] = none

/-! ## The step -/

/-- R30, R110: the block's turn performs the pending command: the step is `exec` of it. R373: with no turn scheduled, a
pending command is what the next step performs, whether or not the host stalls, and a stalled host makes no step (the
model's schedule, log entry 2). -/
def Obligations.StepPerformsPending : Prop :=
  (∀ (s : State) (p : Pending), s.cfg.wf = true → s.pend = some p →
    (∀ ts, s.turns = .block :: ts → step s = exec p.cmd { s with turns := ts }) ∧
    (s.turns = [] → step s = exec p.cmd s)) ∧
  (∀ s : State, s.cfg.wf = true → s.turns = [] → s.pend = none → s.host.stalls = true → step s = .next s)

/-- R35, R107: a host write of the eight bytes of a legal word to CMD, while no command is pending, is `exec` of the
decoded command, with the host moved on to its next operation. -/
def Obligations.StepIssuesWrittenWord : Prop :=
  ∀ (s : State) (v : Nat) (i : Instr) (ts : List Turn), s.cfg.wf = true → s.pend = none → s.turns = .host :: ts →
    s.host.prog[s.host.pc]? = some (.memWrite s.cfg.base 8 (.lit v)) →
    decodeBytes (leBytes 8 v) = some i →
    step s = exec i { s with turns := ts, host := { s.host with pc := s.host.pc + 1 } }

/-- R8, R337: a configuration that breaks a constraint of R7, or the alignment of BASE (R71), has no machine: `step`
refuses it (the refusal by `step` is log entry 19). -/
def Obligations.IllFormedConfigRefused : Prop :=
  ∀ s : State,
    (s.cfg.wL = 0 ∨ 64 < s.cfg.wL ∨ s.cfg.sL = 0 ∨ s.cfg.rL ≤ s.cfg.sL ∨ s.cfg.wP = 0 ∨ 64 < s.cfg.wP ∨
      (s.cfg.nP ≠ 2 ∧ s.cfg.nP ≠ 4) ∨ s.cfg.rP = 0 ∨ s.cfg.constP.length ≠ s.cfg.nP ∨
      (∃ v ∈ s.cfg.constP, 2 ^ s.cfg.wP ≤ v) ∨ s.cfg.base % 256 ≠ 0) →
    step s = .refused .illFormedConfig

/-! ## Issue and errors -/

/-- R107, R108, R327: a write to CMD. E_BUSY first, then E_ILLEGAL, then the failing check, then E_SEEDQ_UNDERFLOW with
no word removed; otherwise the command is pending with A, B and the oldest words of the FIFO, and the rest stay. -/
def Obligations.IssueRule : Prop :=
  ∀ (s : State) (w : Word),
    (s.pend ≠ none → writeCmd s w = .next (s.raise .busy)) ∧
    (s.pend = none →
      ((∀ i, decode w ≠ .ok i) → writeCmd s w = .next (s.raise .illegal)) ∧
      (∀ i e, decode w = .ok i → issueCheck i s.opB s = some e → writeCmd s w = .next (s.raise e)) ∧
      (∀ i, decode w = .ok i → issueCheck i s.opB s = none →
        (s.seedq.length < wordsNeeded s.cfg i → writeCmd s w = .next (s.raise .seedqUnderflow)) ∧
        (wordsNeeded s.cfg i ≤ s.seedq.length →
          writeCmd s w = .next
            { s.issued i (s.seedq.take (wordsNeeded s.cfg i)) with seedq := s.seedq.drop (wordsNeeded s.cfg i) })))

/-- R109, checks 1 to 3 with their order: each command that has a check, what it needs, and what an issue without it
records; every other command has none of the three checks, and is pending once its seed words are there. -/
def Obligations.IssueChecks : Prop :=
  ∀ (s : State) (n : Inst) (v : Variant), s.pend = none →
    ((s.lfc.get n).seeded = false →
      exec (.lfcNext n) s = .next (s.raise .unseeded) ∧ exec (.lfcBack n) s = .next (s.raise .unseeded) ∧
      exec (.lfcDiscard n) s = .next (s.raise .unseeded) ∧ exec .lfcEq s = .next (s.raise .unseeded)) ∧
    ((s.phx.get n).seeded = false →
      exec (.phxNext n v) s = .next (s.raise .unseeded) ∧ exec (.phxDiscard n v) s = .next (s.raise .unseeded) ∧
      exec .phxEq s = .next (s.raise .unseeded)) ∧
    ((s.lfc.get n).seeded = true → lfcHasPred s.cfg (s.lfc.get n).st = false →
      exec (.lfcBack n) s = .next (s.raise .noPred)) ∧
    (s.arg1Hi = 0 → s.arg1Lo = 0 → exec .u128Mod s = .next (s.raise .modZero)) ∧
    ((s.lfc.get n).seeded = true →
      exec (.lfcNext n) s = .next (s.issued (.lfcNext n) []) ∧
      exec (.lfcDiscard n) s = .next (s.issued (.lfcDiscard n) []) ∧
      (lfcHasPred s.cfg (s.lfc.get n).st = true → exec (.lfcBack n) s = .next (s.issued (.lfcBack n) []))) ∧
    ((s.phx.get n).seeded = true →
      exec (.phxNext n v) s = .next (s.issued (.phxNext n v) []) ∧
      exec (.phxDiscard n v) s = .next (s.issued (.phxDiscard n v) [])) ∧
    (s.lfc.i0.seeded = true → s.lfc.i1.seeded = true → exec .lfcEq s = .next (s.issued .lfcEq [])) ∧
    (s.phx.i0.seeded = true → s.phx.i1.seeded = true → exec .phxEq s = .next (s.issued .phxEq [])) ∧
    (s.arg1Hi ≠ 0 ∨ s.arg1Lo ≠ 0 → exec .u128Mod s = .next (s.issued .u128Mod [])) ∧
    (∀ i : Instr, (∀ m, i ≠ .lfcNext m ∧ i ≠ .lfcBack m ∧ i ≠ .lfcDiscard m) →
      (∀ m u, i ≠ .phxNext m u ∧ i ≠ .phxDiscard m u) → i ≠ .lfcEq → i ≠ .phxEq → i ≠ .u128Mod →
      issueCheck i s.opB s = none ∧
      (wordsNeeded s.cfg i ≤ s.seedq.length →
        exec i s = .next
          { s.issued i (s.seedq.take (wordsNeeded s.cfg i)) with seedq := s.seedq.drop (wordsNeeded s.cfg i) }))

/-- R324, R326, R320: the first error since the last clear sets ERR and its code; a later one sets EOVF and keeps the
code; nothing else changes. The codes are those of R320. -/
def Obligations.ErrorRecordRule : Prop :=
  (∀ (s : State) (e : ErrCode),
    (s.err = false → s.raise e = { s with err := true, ecode := e.code }) ∧
    (s.err = true → s.raise e = { s with eovf := true })) ∧
  [ErrCode.illegal, .busy, .unseeded, .seedqUnderflow, .seedqOverflow, .modZero, .noPred, .bus].map ErrCode.code =
    [0x01, 0x02, 0x03, 0x04, 0x05, 0x06, 0x07, 0x08]

/-- R328: while ERR is 1 commands behave as with ERR = 0: whatever the error record holds, `exec` answers the same,
apart from the record. -/
def Obligations.ErrorRecordDoesNotBlock : Prop :=
  ∀ (i : Instr) (s t : State) (err eovf : Bool) (ecode : BitVec 8), exec i s = .next t →
    ∃ err' eovf' ecode', exec i (s.withRecord err eovf ecode) = .next (t.withRecord err' eovf' ecode')

/-! ## The register window -/

/-- R36: the fields of STATUS as an eight-byte read at its offset returns them, and what a write does. -/
def Obligations.StatusRegister : Prop :=
  (∀ s : State, s.cfg.wf = true →
    (busRead s (s.cfg.base + 0x008) 8).2 = s ∧
    leNat (busRead s (s.cfg.base + 0x008) 8).1 =
      (if s.pend = none then 0 else 1) + 2 * s.err.toNat + 4 * s.eovf.toNat + 2 ^ 8 * s.ecode.toNat) ∧
  (∀ (s : State) (v : Word), s.cfg.wf = true →
    busWrite s (s.cfg.base + 0x008) (leBytes 8 v.toNat) =
      .next (if v.getLsbD 1 then { s with err := false, eovf := false, ecode := 0 } else s)) ∧
  (∀ c : Config, (State.resetOf c).statusWord = 0)

/-- R75 to R77, R336: every access in the window that is not 8 bytes wide, is misaligned, names a reserved offset, or
goes in a direction the register does not allow, changes nothing of the block but the error record (E_BUS), and a read
returns 0. It is the host's fault: R336's premise fails from the step that makes it on, whatever the error record held
or holds later, and nothing else makes it fail. That the run goes on, with the fault marked in the host, is log entry 17;
widths of 0 and accesses past the window's end are among these by log entry 13 (the model's choice). -/
def Obligations.BusErrors : Prop :=
  (∀ (s : State) (off : Nat), off < 256 →
    (∀ width, width ≠ 8 ∨ off % 8 ≠ 0 ∨ (0x058 ≤ off ∧ off < 0x080) ∨ off = 0x000 ∨ off = 0x040 →
      busRead s (s.cfg.base + off) width =
        (leBytes width 0, { s.raise .bus with host := { s.host with busFault := true } })) ∧
    (∀ data : List Byte,
      data.length ≠ 8 ∨ off % 8 ≠ 0 ∨ (0x058 ≤ off ∧ off < 0x080) ∨ off = 0x030 ∨ off = 0x038 ∨ off = 0x048 ∨
        off = 0x050 ∨ 0x080 ≤ off →
      busWrite s (s.cfg.base + off) data =
        .next { s.raise .bus with host := { s.host with busFault := true } })) ∧
  (∀ s t : State, step s = .next t →
    t.noBusError = (s.noBusError && !(s.nextTurn.1 == .host && s.nextOpIsBusError)))

/-- R73, R75, R78: an eight-byte read at the offset of any register but CMD and SEEDQ returns the register's bytes, least
significant first, and changes nothing. R34: RES_LO and RES_HI return the halves of RES, pending command or not, and are
0 after reset. R37, R39: SEEDED and SEEDQ_COUNT return the four flags and the FIFO's length, and both are 0 after
reset. -/
def Obligations.LegalReads : Prop :=
  (∀ (s : State) (r : Reg), r ≠ .cmd → r ≠ .seedq →
    (busRead s (s.cfg.base + r.offset) 8).2 = s ∧
    ∀ k, k < 8 →
      (busRead s (s.cfg.base + r.offset) 8).1[k]? = some ((readReg s r).extractLsb' (8 * k) 8)) ∧
  (∀ s : State,
    busRead s (s.cfg.base + 0x050) 8 =
      (leBytes 8 (s.lfc.i0.seeded.toNat + 2 * s.lfc.i1.seeded.toNat + 4 * s.phx.i0.seeded.toNat +
        8 * s.phx.i1.seeded.toNat), s) ∧
    (s.seedq.length < 2 ^ 64 → busRead s (s.cfg.base + 0x048) 8 = (leBytes 8 s.seedq.length, s))) ∧
  (∀ s : State,
    busRead s (s.cfg.base + 0x030) 8 = (leBytes 8 s.resLo.toNat, s) ∧
    busRead s (s.cfg.base + 0x038) 8 = (leBytes 8 s.resHi.toNat, s)) ∧
  (∀ c : Config, (State.resetOf c).seededWord = 0 ∧ (State.resetOf c).seedq = [] ∧ (State.resetOf c).resLo = 0 ∧
    (State.resetOf c).resHi = 0)

/-- R33: each ARG register reads as it was last written, a write changes no other state, and reset leaves 0. -/
def Obligations.ArgRegisters : Prop :=
  (∀ (s : State) (v : Word),
    busWrite s (s.cfg.base + 0x010) (leBytes 8 v.toNat) = .next { s with arg0Lo := v } ∧
    busWrite s (s.cfg.base + 0x018) (leBytes 8 v.toNat) = .next { s with arg0Hi := v } ∧
    busWrite s (s.cfg.base + 0x020) (leBytes 8 v.toNat) = .next { s with arg1Lo := v } ∧
    busWrite s (s.cfg.base + 0x028) (leBytes 8 v.toNat) = .next { s with arg1Hi := v }) ∧
  (∀ s : State,
    busRead s (s.cfg.base + 0x010) 8 = (leBytes 8 s.arg0Lo.toNat, s) ∧
    busRead s (s.cfg.base + 0x018) 8 = (leBytes 8 s.arg0Hi.toNat, s) ∧
    busRead s (s.cfg.base + 0x020) 8 = (leBytes 8 s.arg1Lo.toNat, s) ∧
    busRead s (s.cfg.base + 0x028) 8 = (leBytes 8 s.arg1Hi.toNat, s)) ∧
  (∀ c : Config, (State.resetOf c).arg0Lo = 0 ∧ (State.resetOf c).arg0Hi = 0 ∧ (State.resetOf c).arg1Lo = 0 ∧
    (State.resetOf c).arg1Hi = 0)

/-- R38: a push of `v` appends `v[31:0]` when the FIFO is not full, else it is dropped with E_SEEDQ_OVERFLOW, whether or
not a command is pending; a read of SEEDQ is a bus error, marked in the host too (log entry 17). -/
def Obligations.SeedqPort : Prop :=
  ∀ (s : State) (v : Word),
    (s.seedq.length < s.cfg.seedqDepth →
      busWrite s (s.cfg.base + 0x040) (leBytes 8 v.toNat) =
        .next { s with seedq := s.seedq ++ [BitVec.ofNat 32 (v.toNat % 2 ^ 32)] }) ∧
    (s.cfg.seedqDepth ≤ s.seedq.length →
      busWrite s (s.cfg.base + 0x040) (leBytes 8 v.toNat) = .next (s.raise .seedqOverflow)) ∧
    busRead s (s.cfg.base + 0x040) 8 = (leBytes 8 0, { s.raise .bus with host := { s.host with busFault := true } })

/-- R71: an access at an address outside the window never reaches the block: a write changes nothing, and a read changes
nothing but the model's own count of free values (log entry 4). An access that starts below BASE and is wide enough to
run into the window is among these by log entry 13 (the model's choice). -/
def Obligations.OutsideWindow : Prop :=
  ∀ (s : State) (addr : Nat), addr < s.cfg.base ∨ s.cfg.base + 256 ≤ addr →
    (∀ data, busWrite s addr data = .next s) ∧
    (∀ width, (busRead s addr width).2 = { s with freeCtr := s.freeCtr + 1 })

/-- R43, R44, R57: no step, reset included, changes the configuration or what a CFG register reads as; and the CFG
registers read as R44's table says, where the lags and the round count fit their registers (log entry 16). -/
def Obligations.CfgRegisters : Prop :=
  (∀ s t : State, step s = .next t → t.cfg = s.cfg ∧ ∀ r : Reg, 0x080 ≤ r.offset → readReg t r = readReg s r) ∧
  (∀ s : State, s.cfg.wf = true → s.cfg.rL < 2 ^ 32 → s.cfg.rP < 2 ^ 64 →
    [Reg.cfgVersion, .cfgLfcW, .cfgLfcS, .cfgLfcR, .cfgLfcSeedn, .cfgLfcDefseed, .cfgPhxW, .cfgPhxN, .cfgPhxR,
      .cfgPhxSeedn, .cfgPhxDefseed, .cfgPhxConst0, .cfgPhxConst1, .cfgPhxConst2, .cfgPhxConst3,
      .cfgSeedqDepth].map (fun r => (r.offset, (readReg s r).toNat)) =
    [(0x080, 1), (0x088, s.cfg.wL), (0x090, s.cfg.sL), (0x098, s.cfg.rL),
      (0x0A0, s.cfg.rL * (s.cfg.wL / 32 + 1)), (0x0A8, 19780503), (0x0B0, s.cfg.wP), (0x0B8, s.cfg.nP),
      (0x0C0, s.cfg.rP), (0x0C8, s.cfg.nP / 2 * ((s.cfg.wP - 1) / 32 + 1)), (0x0D0, 20111115),
      (0x0D8, s.cfg.constP.getD 0 0), (0x0E0, s.cfg.constP.getD 1 0),
      (0x0E8, if s.cfg.nP = 4 then s.cfg.constP.getD 2 0 else 0),
      (0x0F0, if s.cfg.nP = 4 then s.cfg.constP.getD 3 0 else 0),
      (0x0F8, max (s.cfg.rL * (s.cfg.wL / 32 + 1)) (s.cfg.nP / 2 * ((s.cfg.wP - 1) / 32 + 1)))])

/-! ## Whole-machine rules about commands -/

/-- The frame of every command, issue and perform: R33 (no command writes the ARG registers) and R57 (nor the
configuration); nor the host agent, the schedule and the count of free values, which are not the block's. The FIFO
changes only by a SEEDSEQ's issue and a FLUSH's perform (R40), RES only by a perform (R34). -/
def Obligations.CommandFrame : Prop :=
  ∀ (i : Instr) (s t : State), exec i s = .next t →
    t.arg0Lo = s.arg0Lo ∧ t.arg0Hi = s.arg0Hi ∧ t.arg1Lo = s.arg1Lo ∧ t.arg1Hi = s.arg1Hi ∧
    t.cfg = s.cfg ∧ t.host = s.host ∧ t.turns = s.turns ∧ t.freeCtr = s.freeCtr ∧
    (s.pend = none → t.resLo = s.resLo ∧ t.resHi = s.resHi ∧ t.lfc = s.lfc ∧ t.phx = s.phx) ∧
    (s.pend ≠ none → i ≠ .seedqFlush → t.seedq = s.seedq) ∧
    (s.pend = none → (∀ n v, i ≠ .lfcSeedseq n v) → (∀ n, i ≠ .phxSeedseq n) → t.seedq = s.seedq)

/-- R110, R321, R111: a perform raises no error and ends with BUSY = 0, and the commands that write no result leave both
halves of RES as they are. -/
def Obligations.PerformFrame : Prop :=
  ∀ (i : Instr) (s t : State) (p : Pending), s.pend = some p → exec i s = .next t →
    t.err = s.err ∧ t.eovf = s.eovf ∧ t.ecode = s.ecode ∧ t.pend = none ∧
    (leavesRes i = true → t.resLo = s.resLo ∧ t.resHi = s.resHi)

/-- R50: a command reads and writes no state of an instance it does not name: that instance is unchanged, and had it
held anything else, the command would have done the same. -/
def Obligations.InstancesIndependent : Prop :=
  ∀ (i : Instr) (s t : State) (n : Inst), exec i s = .next t →
    (namesLfc i n = false → t.lfc.get n = s.lfc.get n ∧
      ∀ a : LfcInst, exec i { s with lfc := s.lfc.set n a } = .next { t with lfc := t.lfc.set n a }) ∧
    (namesPhx i n = false → t.phx.get n = s.phx.get n ∧
      ∀ a : PhxInst, exec i { s with phx := s.phx.set n a } = .next { t with phx := t.phx.set n a })

/-- R51: an instance becomes seeded when a seed command on it is performed, and no step but reset makes it unseeded. -/
def Obligations.SeededFlags : Prop :=
  (∀ (s t : State) (n : Inst), step s = .next t → s.nextTurn.1 ≠ .reset →
    ((s.lfc.get n).seeded = true → (t.lfc.get n).seeded = true) ∧
    ((s.phx.get n).seeded = true → (t.phx.get n).seeded = true)) ∧
  (∀ (s t : State) (p : Pending) (n : Inst) (v : Variant), s.pend = some p →
    (exec (.lfcSeed n v) s = .next t ∨ exec (.lfcSeedseq n v) s = .next t → (t.lfc.get n).seeded = true) ∧
    (exec (.phxSeed n) s = .next t ∨ exec (.phxSeedseq n) s = .next t → (t.phx.get n).seeded = true))

/-- R367: operands are latched at issue: a write to any ARG register while a command is pending changes nothing of what
the command does. -/
def Obligations.OperandsAreLatched : Prop :=
  ∀ (i : Instr) (s t : State) (p : Pending) (a0 a1 b0 b1 : Word), s.pend = some p → exec i s = .next t →
    exec i { s with arg0Lo := a0, arg0Hi := a1, arg1Lo := b0, arg1Hi := b1 } =
      .next { t with arg0Lo := a0, arg0Hi := a1, arg1Lo := b0, arg1Hi := b1 }

/-! ## Reset and invariants -/

/-- R361, R53 to R55, R54's last sentence: what a reset turn (log entry 14) leaves, from any state, a command pending or
not. -/
def Obligations.ResetRule : Prop :=
  ∀ (s : State) (ts : List Turn), s.cfg.wf = true → s.turns = .reset :: ts →
    ∃ t, step s = .next t ∧
      t.arg0Lo = 0 ∧ t.arg0Hi = 0 ∧ t.arg1Lo = 0 ∧ t.arg1Hi = 0 ∧ t.resLo = 0 ∧ t.resHi = 0 ∧
      t.err = false ∧ t.eovf = false ∧ t.ecode = 0 ∧ t.pend = none ∧ t.seedq = [] ∧
      (∀ n, (t.lfc.get n).seeded = false ∧ (t.lfc.get n).st.x = List.replicate s.cfg.rL 0 ∧
        (t.lfc.get n).st.i = 0 ∧ (t.lfc.get n).st.carry = false) ∧
      (∀ n, (t.phx.get n).seeded = false ∧ (t.phx.get n).st.X = List.replicate s.cfg.nP 0 ∧
        (t.phx.get n).st.K = List.replicate (s.cfg.nP / 2) 0 ∧ (t.phx.get n).st.Y = List.replicate s.cfg.nP 0 ∧
        (t.phx.get n).st.j = 0) ∧
      t.cfg = s.cfg

/-- The invariant holds after reset of every configuration that R7 allows, and of the one `State.reset` carries (the
model's choice, log entry 1). -/
def Obligations.ResetMeetsInvariant : Prop :=
  (∀ c : Config, c.wf = true → (State.resetOf c).Inv) ∧ State.reset.Inv

/-- Every step keeps the invariant: the configuration stays legal (R57), every LFC word is below 2^W_L with its index in
range (R46), every PHX word is below 2^W_P with its cursor in range (R48), the FIFO holds at most SEEDQ_DEPTH words
(R40), the error record is consistent (R36), a pending command meets its issue checks (R109), and the host's variables
keep their canonical form (log entry 3). -/
def Obligations.StepKeepsInvariant : Prop := ∀ s t : State, s.Inv → step s = .next t → t.Inv

/-- R110, R323: in every state of the invariant the pending command completes, unless it is a corrected LFC seeding
whose warm-up meets a state with no predecessor (R176, U7, log entry 8). -/
def Obligations.PerformCompletes : Prop :=
  ∀ (s : State) (p : Pending), s.Inv → s.pend = some p →
    (∃ t, exec p.cmd s = .next t ∧ t.pend = none) ∨
    (exec p.cmd s = .fault .warmupNoPredecessor ∧
      ∃ n, p.cmd = .lfcSeed n .corrected ∨ p.cmd = .lfcSeedseq n .corrected)

/-- R48: in every state that the invariant and the cache rule admit, a step leaves every seeded PHX instance's cache
valid: `Y` is the block of the current key and of the counter before its last increment, once a block has been
generated. -/
def Obligations.StepKeepsPhxCache : Prop :=
  ∀ s t : State, s.Inv → (∀ n, (s.phx.get n).seeded = true → (s.phx.get n).st.cacheValid s.cfg) → step s = .next t →
    ∀ n, (t.phx.get n).seeded = true → (t.phx.get n).st.cacheValid t.cfg

/-- R82, R113, R373: the `wait` loop, with no turn scheduled and a host that does not stall, ends: from a state in which
the host stands at a `wait` and a command that completes is pending, three steps bring the host past it with BUSY = 0 and
the command's effect made. (With no turn scheduled the block moves first: the model's schedule, log entry 2.) -/
def Obligations.WaitEnds : Prop :=
  ∀ (s t : State) (p : Pending) (tmp : Nat), s.Inv → s.turns = [] → s.host.stalls = false → s.pend = some p →
    s.host.prog[s.host.pc]? = some (.memRead (s.cfg.base + 0x008) 8 (.var tmp)) →
    s.host.prog[s.host.pc + 1]? = some (.ifGoto (.eq (.bits 0 0 (.var (.var tmp))) (.lit 1)) s.host.pc) →
    exec p.cmd s = .next t →
    ∃ u : State, Host.Core.run Sys2Proof.core 3 s = Host.Outcome.next u ∧ u.pend = none ∧ u.host.pc = s.host.pc + 2 ∧
      u = { t with host := u.host }

/-- R112: the assembler accepts a command form exactly when its qualifiers are those its opcode admits, and then yields
the command with those qualifiers; otherwise it refuses it by name, the variant first (the order is log entry 20). The
three texts that R112 writes out give its three words. R113: what each pseudo-instruction expands to. -/
def Obligations.AssemblerQualifiers : Prop :=
  (∀ i : Instr, assembleCmd { mnemonic := i.mnem, variant := i.var?, inst := i.inst? } = .ok i) ∧
  (∀ f : CmdForm, (∃ i, assembleCmd f = .ok i) ↔
    f.variant.isSome = f.mnemonic.usesVar ∧ f.inst.isSome = f.mnemonic.usesInst) ∧
  (∀ m n v, (m.usesVar = true → assembleCmd { mnemonic := m, variant := none, inst := n } = .error (.missingVariant m)) ∧
    (m.usesVar = false → assembleCmd { mnemonic := m, variant := some v, inst := n } = .error (.extraVariant m))) ∧
  (∀ m (v : Option Variant) n, v.isSome = m.usesVar →
    (m.usesInst = true → assembleCmd { mnemonic := m, variant := v, inst := none } = .error (.missingInst m)) ∧
    (m.usesInst = false → assembleCmd { mnemonic := m, variant := v, inst := some n } = .error (.extraInst m))) ∧
  (assembleText "lfc.seed.cor i0").map encode = .ok 0x210 ∧
  (assembleText "phx.discard.lit i1").map encode = .ok 0x123 ∧ (assembleText "u128.ge").map encode = .ok 0x37 ∧
  (∀ (base place tmp : Nat) (ps : List Pseudo) (r : Reg) (v : HExpr) (dst lo hi : VarRef),
    expand base ps place (.wr r v) = .ok [.memWrite (base + r.offset) 8 v] ∧
    expand base ps place (.rd r dst) = .ok [.memRead (base + r.offset) 8 dst] ∧
    (∀ f i, assembleCmd f = .ok i →
      expand base ps place (.cmd f) = .ok [.memWrite (base + 0x000) 8 (.lit (encode i).toNat)]) ∧
    expand base ps place (.wr128 .arg0 v) =
      .ok [.memWrite (base + 0x010) 8 (.bits 63 0 v), .memWrite (base + 0x018) 8 (.bits 127 64 v)] ∧
    expand base ps place (.wr128 .arg1 v) =
      .ok [.memWrite (base + 0x020) 8 (.bits 63 0 v), .memWrite (base + 0x028) 8 (.bits 127 64 v)] ∧
    expand base ps place (.rd128 lo hi) = .ok [.memRead (base + 0x030) 8 lo, .memRead (base + 0x038) 8 hi] ∧
    expand base ps place (.push v) = .ok [.memWrite (base + 0x040) 8 (.bits 31 0 v)] ∧
    expand base ps place .clrerr = .ok [.memWrite (base + 0x008) 8 (.lit 0x2)] ∧
    expand base ps place (.wait tmp) =
      .ok [.memRead (base + 0x008) 8 (.var tmp), .ifGoto (.eq (.bits 0 0 (.var (.var tmp))) (.lit 1)) place])

/-! ## Control commands -/

/-- R300, R301: NOP does nothing and SEEDQ.FLUSH empties the FIFO, each issuing without an exception. -/
def Obligations.ControlCommands : Prop :=
  encode .nop = 0x001 ∧ encode .seedqFlush = 0x002 ∧ IssuesFreely .nop ∧ IssuesFreely .seedqFlush ∧
  ∀ (s : State) (p : Pending), s.pend = some p →
    exec .nop s = .next { s with pend := none } ∧
    exec .seedqFlush s = .next { s with seedq := [], pend := none }

/-! ## LFC -/

/-- R152: LFC.SEED constructs instance `n` from the LCG words of `A[63:0]`, sets its seeded flag and changes nothing
else; a literal seeding always completes. A corrected one whose warm-up meets a state with no predecessor faults (R176,
U7, log entry 8). -/
def Obligations.LfcSeedRule : Prop :=
  (∀ n v, encode (.lfcSeed n v) = BitVec.ofNat 64 (0x010 + 0x100 * n.bit + 0x200 * v.bit)) ∧
  (∀ n v, IssuesFreely (.lfcSeed n v)) ∧
  (∀ (n : Inst) (v : Variant) (s : State) (p : Pending), s.pend = some p →
    (∀ st, lfcConstruct s.cfg (lcgWords s.cfg (p.a.toNat % 2 ^ 64)) v = some st →
      exec (.lfcSeed n v) s = .next { s with lfc := s.lfc.set n { seeded := true, st := st }, pend := none }) ∧
    (lfcConstruct s.cfg (lcgWords s.cfg (p.a.toNat % 2 ^ 64)) v = none →
      exec (.lfcSeed n v) s = .fault .warmupNoPredecessor)) ∧
  (∀ (n : Inst) (s : State) (p : Pending), s.pend = some p →
    exec (.lfcSeed n .literal) s =
      .next { s with
        lfc := s.lfc.set n { seeded := true, st := lfcLiteral s.cfg (lcgWords s.cfg (p.a.toNat % 2 ^ 64)) },
        pend := none })

/-- R153: LFC.SEEDSEQ takes the oldest LFC_SEEDN words at issue, or records E_SEEDQ_UNDERFLOW and removes none; its
perform constructs instance `n` from them and changes nothing else. A corrected seeding whose warm-up meets a state with
no predecessor faults (R176, U7, log entry 8). -/
def Obligations.LfcSeedseqRule : Prop :=
  (∀ n v, encode (.lfcSeedseq n v) = BitVec.ofNat 64 (0x011 + 0x100 * n.bit + 0x200 * v.bit)) ∧
  (∀ (n : Inst) (v : Variant) (s : State), s.pend = none →
    let need := s.cfg.rL * (s.cfg.wL / 32 + 1)
    (s.seedq.length < need → exec (.lfcSeedseq n v) s = .next (s.raise .seedqUnderflow)) ∧
    (need ≤ s.seedq.length →
      exec (.lfcSeedseq n v) s =
        .next { s.issued (.lfcSeedseq n v) (s.seedq.take need) with seedq := s.seedq.drop need })) ∧
  (∀ (n : Inst) (v : Variant) (s : State) (p : Pending), s.pend = some p →
    p.words.length = s.cfg.rL * (s.cfg.wL / 32 + 1) →
    (∀ st, lfcConstruct s.cfg p.words v = some st →
      exec (.lfcSeedseq n v) s = .next { s with lfc := s.lfc.set n { seeded := true, st := st }, pend := none }) ∧
    (lfcConstruct s.cfg p.words v = none → exec (.lfcSeedseq n v) s = .fault .warmupNoPredecessor) ∧
    exec (.lfcSeedseq n .literal) s =
      .next { s with lfc := s.lfc.set n { seeded := true, st := lfcLiteral s.cfg p.words }, pend := none })

/-- R141 to R143: the LCG words of a seed: LFC_SEEDN of them, each in [1, 2147483562], the first one LCG step from the
initial state, each later one a step from the word before; seeds 0 and LFC_DEFAULT_SEED give the same words. -/
def Obligations.LcgWordsRule : Prop :=
  ∀ (c : Config) (sd : Nat),
    let sd' := if sd = 0 then 19780503 else sd
    let g := sd' % 2 ^ 32 % 2147483563
    let g0 := if g = 0 then 1 else g
    let z := lcgWords c sd
    z.length = c.rL * (c.wL / 32 + 1) ∧
    (∀ m, m < z.length → 1 ≤ (z.getD m 0).toNat ∧ (z.getD m 0).toNat ≤ 2147483562) ∧
    (0 < z.length → (z.getD 0 0).toNat = g0 * 40014 % 2147483563) ∧
    (∀ m, m + 1 < z.length → (z.getD (m + 1) 0).toNat = (z.getD m 0).toNat * 40014 % 2147483563) ∧
    lcgWords c 0 = lcgWords c 19780503

/-- R144, R145: packing: slot j is its group of `k` words, the first least significant, reduced mod 2^w; carry is 1
exactly when the last slot is 0; the index is 0. -/
def Obligations.PackingRule : Prop :=
  ∀ (c : Config) (z : List SeedWord), z.length = c.rL * (c.wL / 32 + 1) →
    (lfcLiteral c z).x.length = c.rL ∧
    (∀ j, j < c.rL →
      (lfcLiteral c z).x.getD j 0 =
        (∑ t ∈ Finset.range (c.wL / 32 + 1), (z.getD (j * (c.wL / 32 + 1) + t) 0).toNat * 2 ^ (32 * t)) % 2 ^ c.wL) ∧
    (lfcLiteral c z).i = 0 ∧
    ((lfcLiteral c z).carry = true ↔ (lfcLiteral c z).x.getD (c.rL - 1) 0 = 0)

/-- R154 with R146: LFC.NEXT makes one forward step and puts the output in RES; nothing else changes. -/
def Obligations.LfcNextRule : Prop :=
  (∀ n, encode (.lfcNext n) = BitVec.ofNat 64 (0x012 + 0x100 * n.bit)) ∧
  (∀ (n : Inst) (s : State), s.pend = none →
    ((s.lfc.get n).seeded = false → exec (.lfcNext n) s = .next (s.raise .unseeded)) ∧
    ((s.lfc.get n).seeded = true → exec (.lfcNext n) s = .next (s.issued (.lfcNext n) []))) ∧
  (∀ (n : Inst) (s : State) (p : Pending), s.pend = some p → (s.lfc.get n).seeded = true →
    let st := (s.lfc.get n).st
    let sh := if st.i < s.cfg.sL then st.i + s.cfg.rL - s.cfg.sL else st.i - s.cfg.sL
    let temp := st.x.getD st.i 0 + (if st.carry then 1 else 0)
    let y := if temp ≤ st.x.getD sh 0 then st.x.getD sh 0 - temp else 2 ^ s.cfg.wL - temp + st.x.getD sh 0
    exec (.lfcNext n) s =
      .next { s.answered (BitVec.ofNat 128 y) with
        lfc := s.lfc.set n
          { seeded := true
            st := { x := st.x.set st.i y, i := (st.i + 1) % s.cfg.rL, carry := decide (st.x.getD sh 0 < temp) } } })

/-- R155: LFC.BACK makes one backward step and puts the undone output in RES; nothing else changes. E_UNSEEDED and
E_NOPRED at issue, in that order. -/
def Obligations.LfcBackRule : Prop :=
  (∀ n, encode (.lfcBack n) = BitVec.ofNat 64 (0x013 + 0x100 * n.bit)) ∧
  (∀ (n : Inst) (s : State), s.pend = none →
    ((s.lfc.get n).seeded = false → exec (.lfcBack n) s = .next (s.raise .unseeded)) ∧
    ((s.lfc.get n).seeded = true → lfcHasPred s.cfg (s.lfc.get n).st = false →
      exec (.lfcBack n) s = .next (s.raise .noPred)) ∧
    ((s.lfc.get n).seeded = true → lfcHasPred s.cfg (s.lfc.get n).st = true →
      exec (.lfcBack n) s = .next (s.issued (.lfcBack n) []))) ∧
  (∀ (n : Inst) (s : State) (p : Pending), s.pend = some p → (s.lfc.get n).seeded = true →
    lfcHasPred s.cfg (s.lfc.get n).st = true →
    ∃ y st, lfcBack s.cfg (s.lfc.get n).st = some (y, st) ∧
      exec (.lfcBack n) s =
        .next { s.answered (BitVec.ofNat 128 y) with lfc := s.lfc.set n { seeded := true, st := st } })

/-- R149: the backward step: the index retreats, the output is the slot there, the slot takes `t − cp` and the carry
`cp`; `cp` is 0 for t = 0, 1 for t = M, the sign of the first nonzero difference of the walk (distances 1 to r−s−1), and
`x[(i+s) mod r] ≥ t` when the walk is exhausted. -/
def Obligations.BackwardStepRule : Prop :=
  ∀ (c : Config) (st : LfcState), c.wf = true → st.wf c = true → lfcHasPred c st = true →
    let i := (st.i + c.rL - 1) % c.rL
    let y := st.x.getD i 0
    let t : Int := (st.x.getD ((i + c.rL - c.sL) % c.rL) 0 : Int) - y + (if st.carry then 2 ^ c.wL else 0)
    let fwd := fun d => st.x.getD ((i + c.rL - d) % c.rL) 0
    let ref := fun d => st.x.getD (((i + c.rL - d) % c.rL + c.rL - c.sL) % c.rL) 0
    ∃ cp : Bool,
      lfcBack c st = some (y, { x := st.x.set i (t - (if cp then 1 else 0)).toNat, i := i, carry := cp }) ∧
      (t = 0 → cp = false) ∧ (t = 2 ^ c.wL → cp = true) ∧
      (t ≠ 0 → t ≠ 2 ^ c.wL →
        (∀ d, 1 ≤ d → d ≤ c.rL - c.sL - 1 → fwd d ≠ ref d → (∀ d', 1 ≤ d' → d' < d → fwd d' = ref d') →
          (cp = true ↔ ref d < fwd d)) ∧
        ((∀ d, 1 ≤ d → d ≤ c.rL - c.sL - 1 → fwd d = ref d) →
          (cp = true ↔ t ≤ (st.x.getD ((i + c.sL) % c.rL) 0 : Int))))

/-- R156, R173: LFC.DISCARD makes `A[63:0]` forward steps in one perform and leaves RES; run to its end it leaves the
state that as many LFC.NEXT leave, RES apart. -/
def Obligations.LfcDiscardRule : Prop :=
  (∀ n, encode (.lfcDiscard n) = BitVec.ofNat 64 (0x014 + 0x100 * n.bit)) ∧
  (∀ (n : Inst) (s : State), s.pend = none →
    ((s.lfc.get n).seeded = false → exec (.lfcDiscard n) s = .next (s.raise .unseeded)) ∧
    ((s.lfc.get n).seeded = true → exec (.lfcDiscard n) s = .next (s.issued (.lfcDiscard n) []))) ∧
  (∀ (n : Inst) (s : State) (p : Pending), s.pend = some p → (s.lfc.get n).seeded = true →
    exec (.lfcDiscard n) s =
      .next { s with
        lfc := s.lfc.set n
          { seeded := true
            st := (fun st => (lfcFwd s.cfg st).2)^[p.a.toNat % 2 ^ 64] (s.lfc.get n).st },
        pend := none }) ∧
  (∀ (n : Inst) (s : State), s.pend = none → (s.lfc.get n).seeded = true →
    ∃ t u, runCommands (.lfcNext n) s.arg0Lo.toNat s = some t ∧ runCommand (.lfcDiscard n) s = some u ∧
      u = { t with resLo := s.resLo, resHi := s.resHi })

/-- R157, R158, R159, R177: LFC.EQ compares the triples `(x, i, carry)` of the two instances; LFC.MIN is 0; LFC.MAX is
2^w − 1 for every legal w. Nothing but RES changes. -/
def Obligations.LfcEqMinMax : Prop :=
  encode .lfcEq = 0x015 ∧ encode .lfcMin = 0x016 ∧ encode .lfcMax = 0x017 ∧
  (∀ s : State, s.pend = none →
    (s.lfc.i0.seeded = true → s.lfc.i1.seeded = true → exec .lfcEq s = .next (s.issued .lfcEq [])) ∧
    (s.lfc.i0.seeded = false ∨ s.lfc.i1.seeded = false → exec .lfcEq s = .next (s.raise .unseeded))) ∧
  IssuesFreely .lfcMin ∧ IssuesFreely .lfcMax ∧
  ∀ (s : State) (p : Pending), s.pend = some p →
    (s.lfc.i0.seeded = true → s.lfc.i1.seeded = true →
      (s.lfc.i0.st.x = s.lfc.i1.st.x ∧ s.lfc.i0.st.i = s.lfc.i1.st.i ∧ s.lfc.i0.st.carry = s.lfc.i1.st.carry →
        exec .lfcEq s = .next (s.answered 1)) ∧
      (¬(s.lfc.i0.st.x = s.lfc.i1.st.x ∧ s.lfc.i0.st.i = s.lfc.i1.st.i ∧ s.lfc.i0.st.carry = s.lfc.i1.st.carry) →
        exec .lfcEq s = .next (s.answered 0))) ∧
    exec .lfcMin s = .next (s.answered 0) ∧
    (s.cfg.wf = true → ∃ r : U128, r.toNat = 2 ^ s.cfg.wL - 1 ∧ exec .lfcMax s = .next (s.answered r))

/-- R46, R147, R149, R170: from a state whose words are below 2^w, a forward step and a backward step output a word below 2^w
and keep every word below 2^w and the index in range. -/
def Obligations.LfcRange : Prop :=
  ∀ (c : Config) (st : LfcState), c.wf = true → st.wf c = true →
    (lfcFwd c st).1 < 2 ^ c.wL ∧ (lfcFwd c st).2.wf c = true ∧
    ∀ y st', lfcBack c st = some (y, st') → y < 2 ^ c.wL ∧ st'.wf c = true

/-- R171, its second law: for every state with a predecessor, the forward step undoes the backward step, with the same
output. -/
def Obligations.ForwardUndoesBackward : Prop :=
  ∀ (c : Config) (st st' : LfcState) (y : Nat), c.wf = true → st.wf c = true → lfcBack c st = some (y, st') →
    lfcFwd c st' = (y, st)

/-- R171's first law with R176, for every configuration: on an instance that a corrected construction made, after any
number of forward steps, a forward step has a predecessor test that holds, and the backward step undoes it exactly, with
the same output. -/
def Obligations.NextThenBackRestores : Prop :=
  ∀ (c : Config) (z : List SeedWord) (st : LfcState) (n : Nat), c.wf = true → lfcConstruct c z .corrected = some st →
    let cur := lfcFwdN c n st
    lfcHasPred c (lfcFwd c cur).2 = true ∧ lfcBack c (lfcFwd c cur).2 = some ((lfcFwd c cur).1, cur)

/-- R148: `HasPred(st)` is `0 ≤ t ≤ M` for the exact sum t, and it holds exactly when st is `Fwd` of some state. -/
def Obligations.PredecessorTest : Prop :=
  ∀ (c : Config) (st : LfcState), c.wf = true → st.wf c = true →
    (let i := (st.i + c.rL - 1) % c.rL
     let t : Int := (st.x.getD ((i + c.rL - c.sL) % c.rL) 0 : Int) - (st.x.getD i 0 : Int)
       + (if st.carry then 2 ^ c.wL else 0)
     lfcHasPred c st = true ↔ 0 ≤ t ∧ t ≤ 2 ^ c.wL) ∧
    (lfcHasPred c st = true ↔ ∃ st0 : LfcState, st0.wf c = true ∧ (lfcFwd c st0).2 = st)

/-- R175: the two variants, seeded alike, reach the same state after r steps and give the same outputs forever. -/
def Obligations.VariantsSameOutputs : Prop :=
  ∀ (c : Config) (z : List SeedWord) (st : LfcState), c.wf = true → lfcConstruct c z .corrected = some st →
    lfcFwdN c c.rL st = lfcFwdN c c.rL (lfcLiteral c z) ∧
    ∀ k, (lfcFwd c (lfcFwdN c k st)).1 = (lfcFwd c (lfcFwdN c k (lfcLiteral c z))).1

/-- R176, for every legal configuration: every backward step of the warm-up meets a state with a predecessor, so a
corrected construction never faults. -/
def Obligations.WarmupNeverFaults : Prop :=
  ∀ (c : Config) (z : List SeedWord), c.wf = true → ∃ st, lfcConstruct c z .corrected = some st

/-- R172 for test16: after P = 2^64 − 2^32 forward steps, an instance that a corrected construction made, from the words
of any seed or any other words, is back in its state; the literal instance of the default seed never returns. -/
def Obligations.Test16Returns : Prop :=
  let c := Config.test16Philox32
  (∀ z : List SeedWord, ∃ st, lfcConstruct c z .corrected = some st ∧ lfcFwdN c (2 ^ 64 - 2 ^ 32) st = st) ∧
  ∀ k, 0 < k → lfcFwdN c k (lfcLiteral c (lcgWords c 0)) ≠ lfcLiteral c (lcgWords c 0)

/-! ## PHX -/

/-- R213 with R210, R214 with R211: PHX.SEED and PHX.SEEDSEQ give instance `n` its key, a zero counter and cache and the
cursor n − 1, set its seeded flag and change nothing else. -/
def Obligations.PhxSeedRules : Prop :=
  (∀ n, encode (.phxSeed n) = BitVec.ofNat 64 (0x020 + 0x100 * n.bit) ∧
    encode (.phxSeedseq n) = BitVec.ofNat 64 (0x021 + 0x100 * n.bit)) ∧
  (∀ n, IssuesFreely (.phxSeed n)) ∧
  (∀ (n : Inst) (s : State), s.pend = none →
    let need := s.cfg.nP / 2 * ((s.cfg.wP - 1) / 32 + 1)
    (s.seedq.length < need → exec (.phxSeedseq n) s = .next (s.raise .seedqUnderflow)) ∧
    (need ≤ s.seedq.length →
      exec (.phxSeedseq n) s =
        .next { s.issued (.phxSeedseq n) (s.seedq.take need) with seedq := s.seedq.drop need })) ∧
  (∀ (n : Inst) (s : State) (p : Pending), s.pend = some p →
    let fresh := fun K : List Nat =>
      ({ seeded := true
         st := { X := List.replicate s.cfg.nP 0, K := K, Y := List.replicate s.cfg.nP 0, j := s.cfg.nP - 1 } } : PhxInst)
    exec (.phxSeed n) s =
      .next { s with
        phx := s.phx.set n (fresh (p.a.toNat % 2 ^ 64 % 2 ^ s.cfg.wP :: List.replicate (s.cfg.nP / 2 - 1) 0)),
        pend := none } ∧
    (p.words.length = s.cfg.nP / 2 * ((s.cfg.wP - 1) / 32 + 1) →
      ∃ K : List Nat, K.length = s.cfg.nP / 2 ∧
        (∀ m, m < s.cfg.nP / 2 → K.getD m 0 =
          (∑ t ∈ Finset.range ((s.cfg.wP - 1) / 32 + 1),
            (p.words.getD (m * ((s.cfg.wP - 1) / 32 + 1) + t) 0).toNat * 2 ^ (32 * t)) % 2 ^ s.cfg.wP) ∧
        exec (.phxSeedseq n) s = .next { s with phx := s.phx.set n (fresh K), pend := none }))

/-- R215 with R212: PHX.NEXT advances the cursor; at n it generates a block from the current counter, increments the
counter and returns word 0; otherwise it returns the cached word. The key never changes, and nothing but the instance
and RES does. -/
def Obligations.PhxNextRule : Prop :=
  (∀ n v, encode (.phxNext n v) = BitVec.ofNat 64 (0x022 + 0x100 * n.bit + 0x200 * v.bit)) ∧
  (∀ (n : Inst) (v : Variant) (s : State), s.pend = none →
    ((s.phx.get n).seeded = false → exec (.phxNext n v) s = .next (s.raise .unseeded)) ∧
    ((s.phx.get n).seeded = true → exec (.phxNext n v) s = .next (s.issued (.phxNext n v) []))) ∧
  (∀ (n : Inst) (v : Variant) (s : State) (p : Pending), s.pend = some p → (s.phx.get n).seeded = true →
    let st := (s.phx.get n).st
    let Y := phxBlock s.cfg v st.K st.X
    (st.j + 1 = s.cfg.nP →
      exec (.phxNext n v) s =
        .next { s.answered (BitVec.ofNat 128 (Y.getD 0 0)) with
          phx := s.phx.set n { seeded := true, st := { X := phxInc s.cfg st.X, K := st.K, Y := Y, j := 0 } } }) ∧
    (st.j + 1 ≠ s.cfg.nP →
      exec (.phxNext n v) s =
        .next { s.answered (BitVec.ofNat 128 (st.Y.getD (st.j + 1) 0)) with
          phx := s.phx.set n { seeded := true, st := { X := st.X, K := st.K, Y := st.Y, j := st.j + 1 } } }))

/-- R216, R232: PHX.DISCARD makes `A[63:0]` next calls in its variant in one perform and leaves RES; run to its end it
leaves the state that as many PHX.NEXT of that variant leave, RES apart. -/
def Obligations.PhxDiscardRule : Prop :=
  (∀ n v, encode (.phxDiscard n v) = BitVec.ofNat 64 (0x023 + 0x100 * n.bit + 0x200 * v.bit)) ∧
  (∀ (n : Inst) (v : Variant) (s : State), s.pend = none →
    ((s.phx.get n).seeded = false → exec (.phxDiscard n v) s = .next (s.raise .unseeded)) ∧
    ((s.phx.get n).seeded = true → exec (.phxDiscard n v) s = .next (s.issued (.phxDiscard n v) []))) ∧
  (∀ (n : Inst) (v : Variant) (s : State) (p : Pending), s.pend = some p → (s.phx.get n).seeded = true →
    exec (.phxDiscard n v) s =
      .next { s with
        phx := s.phx.set n
          { seeded := true
            st := (fun st => (phxNext s.cfg v st).2)^[p.a.toNat % 2 ^ 64] (s.phx.get n).st },
        pend := none }) ∧
  (∀ (n : Inst) (v : Variant) (s : State), s.pend = none → (s.phx.get n).seeded = true →
    ∃ t u, runCommands (.phxNext n v) s.arg0Lo.toNat s = some t ∧ runCommand (.phxDiscard n v) s = some u ∧
      u = { t with resLo := s.resLo, resHi := s.resHi })

/-- R217, R218, R219: PHX.EQ compares `(X, K, Y, j)` of the two instances; PHX.MIN is 0; PHX.MAX is 2^w − 1 for every
legal w. Nothing but RES changes. -/
def Obligations.PhxEqMinMax : Prop :=
  encode .phxEq = 0x024 ∧ encode .phxMin = 0x025 ∧ encode .phxMax = 0x026 ∧
  (∀ s : State, s.pend = none →
    (s.phx.i0.seeded = true → s.phx.i1.seeded = true → exec .phxEq s = .next (s.issued .phxEq [])) ∧
    (s.phx.i0.seeded = false ∨ s.phx.i1.seeded = false → exec .phxEq s = .next (s.raise .unseeded))) ∧
  IssuesFreely .phxMin ∧ IssuesFreely .phxMax ∧
  ∀ (s : State) (p : Pending), s.pend = some p →
    (s.phx.i0.seeded = true → s.phx.i1.seeded = true →
      (s.phx.i0.st.X = s.phx.i1.st.X ∧ s.phx.i0.st.K = s.phx.i1.st.K ∧ s.phx.i0.st.Y = s.phx.i1.st.Y ∧
          s.phx.i0.st.j = s.phx.i1.st.j →
        exec .phxEq s = .next (s.answered 1)) ∧
      (¬(s.phx.i0.st.X = s.phx.i1.st.X ∧ s.phx.i0.st.K = s.phx.i1.st.K ∧ s.phx.i0.st.Y = s.phx.i1.st.Y ∧
          s.phx.i0.st.j = s.phx.i1.st.j) →
        exec .phxEq s = .next (s.answered 0))) ∧
    exec .phxMin s = .next (s.answered 0) ∧
    (s.cfg.wf = true → ∃ r : U128, r.toNat = 2 ^ s.cfg.wP - 1 ∧ exec .phxMax s = .next (s.answered r))

/-- R220, R200, R236: PHX.MULHILO puts the halves of the exact product of the masked operands in RES_HI and RES_LO; for
every width the product is what U128.MUL gives on the zero-extended operands. -/
def Obligations.PhxMulhiloRule : Prop :=
  encode .phxMulhilo = 0x027 ∧ IssuesFreely .phxMulhilo ∧
  (∀ (s : State) (p : Pending), s.cfg.wf = true → s.pend = some p →
    let a := p.a.toNat % 2 ^ 64 % 2 ^ s.cfg.wP
    let b := p.b.toNat % 2 ^ 64 % 2 ^ s.cfg.wP
    ∃ hi lo : Word, hi.toNat = a * b / 2 ^ s.cfg.wP ∧ lo.toNat = a * b % 2 ^ s.cfg.wP ∧
      exec .phxMulhilo s = .next { s with resHi := hi, resLo := lo, pend := none }) ∧
  (∀ (c : Config) (a b : Nat), c.wf = true → a < 2 ^ c.wP → b < 2 ^ c.wP → ∀ s : State,
    ∃ m, resultOf .u128Mul s (BitVec.ofNat 128 a) (BitVec.ofNat 128 b) = some m ∧
      mulhilo c a b = (m.toNat / 2 ^ c.wP, m.toNat % 2 ^ c.wP))

/-- R203 to R206: the four rounds, lane by lane, with `(hi, lo)` the halves of the exact product. R207 with R202: the
block is the counter after exactly R_P rounds, round q, for q = 0 to R_P − 1, with the keys `(K[k] + q·C[2k+1]) mod 2^w`,
and its lanes stay below 2^w. -/
def Obligations.RoundFunctions : Prop :=
  (∀ (c : Config) (v : Variant) (K X : List Nat),
    (∃ Z : Nat → List Nat, Z 0 = X ∧
      (∀ q, q < c.rP →
        Z (q + 1) = phxRound c v (fun k => (K.getD k 0 + q * c.constP.getD (2 * k + 1) 0) % 2 ^ c.wP) (Z q)) ∧
      phxBlock c v K X = Z c.rP) ∧
    (c.wf = true → phxWordsOk c c.nP X = true → phxWordsOk c c.nP (phxBlock c v K X) = true)) ∧
  ∀ (c : Config) (key : Nat → Nat) (x0 x1 x2 x3 : Nat),
    let hi := fun a k => a * c.constP.getD (2 * k) 0 / 2 ^ c.wP
    let lo := fun a k => a * c.constP.getD (2 * k) 0 % 2 ^ c.wP
    (c.nP = 2 →
      phxRound c .corrected key [x0, x1] = [hi x0 0 ^^^ key 0 ^^^ x1, lo x0 0] ∧
      phxRound c .literal key [x0, x1] = [lo x1 0, hi x1 0 ^^^ key 0 ^^^ x0]) ∧
    (c.nP = 4 →
      phxRound c .corrected key [x0, x1, x2, x3] =
        [hi x2 0 ^^^ key 0 ^^^ x1, lo x2 0, hi x0 1 ^^^ key 1 ^^^ x3, lo x0 1] ∧
      phxRound c .literal key [x0, x1, x2, x3] =
        [lo x3 0, hi x3 0 ^^^ key 0 ^^^ x0, lo x1 1, hi x1 1 ^^^ key 1 ^^^ x2])

/-- R234: the literal block is the corrected block with its lanes swapped pairwise, before and after. -/
def Obligations.VariantConjugation : Prop :=
  ∀ (c : Config) (K X : List Nat), c.wf = true → X.length = c.nP →
    phxBlock c .literal K X = swapPairs (phxBlock c .corrected K (swapPairs X))

/-- R209, R235: the increment adds one to the counter modulo 2^(w·n) and leaves n words below 2^w; a counter returns to
itself after 2^(w·n) increments and not before. -/
def Obligations.CounterRule : Prop :=
  ∀ (c : Config) (X : List Nat), c.wf = true → phxWordsOk c c.nP X = true →
    ctrValue c.wP (phxInc c X) = (ctrValue c.wP X + 1) % 2 ^ (c.wP * c.nP) ∧
    phxWordsOk c c.nP (phxInc c X) = true ∧
    (∀ k, (phxInc c)^[k] X = X ↔ k % 2 ^ (c.wP * c.nP) = 0)

/-- R207, R212, R230: from a state whose words are below 2^w, a next call outputs a word below 2^w, keeps every word
below 2^w and the cursor in range, and keeps the key. -/
def Obligations.PhxRange : Prop :=
  ∀ (c : Config) (v : Variant) (st : PhxState), c.wf = true → st.wf c = true →
    (phxNext c v st).1 < 2 ^ c.wP ∧ (phxNext c v st).2.wf c = true ∧ (phxNext c v st).2.K = st.K

/-! ## XU -/

/-- R262, R263: U128.ADD and U128.SUB, modulo 2^128; nothing but RES changes. -/
def Obligations.U128AddSub : Prop :=
  encode .u128Add = 0x030 ∧ encode .u128Sub = 0x031 ∧ IssuesFreely .u128Add ∧ IssuesFreely .u128Sub ∧
  ∀ (s : State) (p : Pending), s.pend = some p →
    (∃ r : U128, r.toNat = (p.a.toNat + p.b.toNat) % 2 ^ 128 ∧ exec .u128Add s = .next (s.answered r)) ∧
    (∃ r : U128, (r.toNat : Int) = ((p.a.toNat : Int) - p.b.toNat) % 2 ^ 128 ∧
      exec .u128Sub s = .next (s.answered r))

/-- R264, R265: U128.SHL and U128.SHR by all 128 bits of B, 0 for B ≥ 128; nothing but RES changes. -/
def Obligations.U128Shifts : Prop :=
  encode .u128Shl = 0x032 ∧ encode .u128Shr = 0x033 ∧ IssuesFreely .u128Shl ∧ IssuesFreely .u128Shr ∧
  ∀ (s : State) (p : Pending), s.pend = some p →
    (∃ r : U128, r.toNat = (if p.b.toNat < 128 then p.a.toNat * 2 ^ p.b.toNat % 2 ^ 128 else 0) ∧
      exec .u128Shl s = .next (s.answered r)) ∧
    (∃ r : U128, r.toNat = (if p.b.toNat < 128 then p.a.toNat / 2 ^ p.b.toNat else 0) ∧
      exec .u128Shr s = .next (s.answered r))

/-- R266, R280, R267: U128.MUL is the low 128 bits of the product, exact for 64-bit operands. U128.MOD is the unique
remainder below B; B = 0 records E_MOD_ZERO at issue with RES unchanged. Nothing but RES changes. -/
def Obligations.U128MulMod : Prop :=
  encode .u128Mul = 0x034 ∧ encode .u128Mod = 0x035 ∧ IssuesFreely .u128Mul ∧
  (∀ s : State, s.pend = none →
    (s.arg1Hi = 0 ∧ s.arg1Lo = 0 → exec .u128Mod s = .next (s.raise .modZero)) ∧
    (¬(s.arg1Hi = 0 ∧ s.arg1Lo = 0) → exec .u128Mod s = .next (s.issued .u128Mod []))) ∧
  ∀ (s : State) (p : Pending), s.pend = some p →
    (∃ r : U128, r.toNat = p.a.toNat * p.b.toNat % 2 ^ 128 ∧
      (p.a.toNat < 2 ^ 64 → p.b.toNat < 2 ^ 64 → r.toNat = p.a.toNat * p.b.toNat) ∧
      exec .u128Mul s = .next (s.answered r)) ∧
    (p.b ≠ 0 →
      ∃ r : U128, r.toNat < p.b.toNat ∧ (∃ q : Nat, p.a.toNat = q * p.b.toNat + r.toNat) ∧
        exec .u128Mod s = .next (s.answered r))

/-- R268, R269: U128.LE and U128.GE compare the unsigned values and answer 1 or 0 in RES; nothing else changes. -/
def Obligations.U128Compare : Prop :=
  encode .u128Le = 0x036 ∧ encode .u128Ge = 0x037 ∧ IssuesFreely .u128Le ∧ IssuesFreely .u128Ge ∧
  ∀ (s : State) (p : Pending), s.pend = some p →
    exec .u128Le s = .next (s.answered (if p.a.toNat ≤ p.b.toNat then 1 else 0)) ∧
    exec .u128Ge s = .next (s.answered (if p.b.toNat ≤ p.a.toNat then 1 else 0))

/-- R281, R282, R283: the laws of the XU: add and subtract are inverse; the remainder is below B and at most A, and A
less it is a multiple of B; the comparisons are total and dual; shifts compose. -/
def Obligations.U128Laws : Prop :=
  ∀ (s : State) (a b : U128),
    (∃ x, resultOf .u128Add s a b = some x ∧ resultOf .u128Sub s x b = some a) ∧
    (∃ x, resultOf .u128Sub s a b = some x ∧ resultOf .u128Add s x b = some a) ∧
    (b ≠ 0 → ∃ m d, resultOf .u128Mod s a b = some m ∧ resultOf .u128Sub s a m = some d ∧
      m.toNat < b.toNat ∧ m.toNat ≤ a.toNat ∧ b.toNat ∣ d.toNat) ∧
    resultOf .u128Le s a b = resultOf .u128Ge s b a ∧
    (resultOf .u128Le s a b = some 1 ∨ resultOf .u128Ge s a b = some 1) ∧
    ((resultOf .u128Le s a b = some 1 ∧ resultOf .u128Ge s a b = some 1) ↔ a = b) ∧
    (∀ j k : Nat, j + k < 128 →
      (∃ x, resultOf .u128Shl s a (BitVec.ofNat 128 j) = some x ∧
        resultOf .u128Shl s x (BitVec.ofNat 128 k) = resultOf .u128Shl s a (BitVec.ofNat 128 (j + k))) ∧
      (∃ x, resultOf .u128Shr s a (BitVec.ofNat 128 j) = some x ∧
        resultOf .u128Shr s x (BitVec.ofNat 128 k) = resultOf .u128Shr s a (BitVec.ofNat 128 (j + k))))
end

