-- ==== Sys2Proof/Laws/Codec.lean ====
section
/-! SUPPORT. Byte order (20_memory.md R73): what `leBytes` and `leNat` are to each other. -/

namespace Sys2Proof

@[simp] theorem leBytes_length (n v : Nat) : (leBytes n v).length = n := by
  induction n generalizing v with
  | zero => rfl
  | succ n ih => simp [leBytes, ih]

/-- Reading back the bytes of a value gives the value, truncated to their number. -/
theorem leNat_leBytes (n v : Nat) : leNat (leBytes n v) = v % 256 ^ n := by
  induction n generalizing v with
  | zero => simp [leBytes, leNat, Nat.mod_one]
  | succ n ih => rw [leBytes, leNat, ih, BitVec.toNat_ofNat, pow_succ' 256 n, Nat.mod_mul]

/-- Eight bytes carry a register whole. -/
@[simp] theorem leNat_leBytes_word (v : Word) : leNat (leBytes 8 v.toNat) = v.toNat := by
  have := v.isLt
  rw [leNat_leBytes]
  omega

theorem leBytes_getElem? {k n : Nat} (v : Nat) (h : k < n) :
    (leBytes n v)[k]? = some (BitVec.ofNat 8 (v / 256 ^ k)) := by
  induction n generalizing v k with
  | zero => omega
  | succ n ih =>
    cases k with
    | zero => simp [leBytes]
    | succ k => simp [leBytes, ih (v / 256) (by omega : k < n), Nat.div_div_eq_div_mul, pow_succ']

end Sys2Proof
end

