-- ==== Sys2Proof/Laws/Bus.lean ====
section
/-! SUPPORT. The register window (20_memory.md R70 to R79): what an access does, by the register it names. -/

namespace Sys2Proof

@[simp] theorem Reg.ofOffset_offset (r : Reg) : Reg.ofOffset r.offset = some r := by cases r <;> rfl

theorem Reg.offset_lt (r : Reg) : r.offset < 256 := by cases r <;> decide

namespace Machine

theorem inWindow_iff {c : Config} {addr : Nat} : inWindow c addr = true ↔ c.base ≤ addr ∧ addr < c.base + 256 := by
  simp [inWindow]

theorem busRead_reg (s : State) {r : Reg} (h : r.readable = true) :
    busRead s (s.cfg.base + r.offset) 8 = (leBytes 8 (readReg s r).toNat, s) := by
  have := r.offset_lt
  simp [busRead, inWindow, legalRead, Option.filter, h, this]

theorem busWrite_reg (s : State) {r : Reg} (v : Word) (h : r.writable = true) :
    busWrite s (s.cfg.base + r.offset) (leBytes 8 v.toNat) = writeReg s r v := by
  have := r.offset_lt
  simp [busWrite, inWindow, legalWrite, Option.filter, h, this]

theorem busRead_illegal (s : State) {off width : Nat} (ho : off < 256) (h : legalRead off width = none) :
    busRead s (s.cfg.base + off) width = (leBytes width 0, s.busError) := by
  simp [busRead, inWindow, h, ho]

theorem busWrite_illegal (s : State) {off : Nat} {data : List Byte} (ho : off < 256)
    (h : legalWrite off data.length = none) : busWrite s (s.cfg.base + off) data = .next (s.busError) := by
  simp [busWrite, inWindow, h, ho]

end Machine
end Sys2Proof
end

