-- ==== Sys2Proof/Laws/Engine.lean ====
section
/-! SUPPORT. The engines' shared operations (40_lfc.md R141 to R149, 41_philox.md R200 to R209): lengths, bounds and
closed forms, and the invariants as conjunctions. -/

namespace Sys2Proof

/-- R7, unpacked. -/
theorem Config.wf_iff {c : Config} : c.wf = true ↔
    (1 ≤ c.wL ∧ c.wL ≤ 64) ∧ (1 ≤ c.sL ∧ c.sL < c.rL) ∧ (1 ≤ c.wP ∧ c.wP ≤ 64) ∧ (c.nP = 2 ∨ c.nP = 4) ∧ 1 ≤ c.rP ∧
      (c.constP.length = c.nP ∧ ∀ v ∈ c.constP, v < 2 ^ c.wP) ∧ c.base % 256 = 0 := by
  simp only [Config.wf, Config.okLfcWidth, Config.okLags, Config.okPhxWidth, Config.okPhxCount, Config.okPhxRounds,
    Config.okConsts, Config.okBase, Bool.and_eq_true, decide_eq_true_eq, Bool.or_eq_true, beq_iff_eq,
    List.all_eq_true, and_assoc]

namespace Machine

theorem getD_lt {l : List Nat} {m : Nat} (hm : 0 < m) (h : ∀ v ∈ l, v < m) (k : Nat) : l.getD k 0 < m := by
  rcases Nat.lt_or_ge k l.length with hk | hk
  · exact h _ (by simp [List.getD, hk])
  · simpa [List.getD, hk] using hm

theorem forall_mem_set {l : List Nat} {m y : Nat} (i : Nat) (h : ∀ v ∈ l, v < m) (hy : y < m) :
    ∀ v ∈ l.set i y, v < m := by
  intro v hv
  rcases List.mem_or_eq_of_mem_set hv with h1 | rfl
  · exact h v h1
  · exact hy

/-! ## LFC -/

theorem LfcState.wf_iff {c : Config} {st : LfcState} :
    st.wf c = true ↔ st.x.length = c.rL ∧ (∀ v ∈ st.x, v < 2 ^ c.wL) ∧ st.i < c.rL := by
  unfold LfcState.wf
  rw [Bool.and_eq_true, Bool.and_eq_true, List.all_eq_true, beq_iff_eq, decide_eq_true_iff, and_assoc]
  constructor
  · rintro ⟨a, b, d⟩
    exact ⟨a, fun v hv => of_decide_eq_true (b v hv), d⟩
  · rintro ⟨a, b, d⟩
    exact ⟨a, fun v hv => decide_eq_true (b v hv), d⟩

@[simp] theorem lcgOutputs_length (n g : Nat) : (lcgOutputs n g).length = n := by
  induction n generalizing g with
  | zero => rfl
  | succ n ih => simp [lcgOutputs, ih]

/-- The LCG's modulus is prime and its multiplier no multiple of it: a state in range stays in range. -/
theorem lcgStep_range {g : Nat} (h1 : 1 ≤ g) (h2 : g ≤ 2147483562) : 1 ≤ lcgStep g ∧ lcgStep g ≤ 2147483562 := by
  unfold lcgStep
  refine ⟨?_, by omega⟩
  by_contra h
  have hd : 2147483563 ∣ g * 40014 := Nat.dvd_of_mod_eq_zero (by omega)
  have hg := (by norm_num : Nat.Coprime 2147483563 40014).dvd_of_dvd_mul_right hd
  have := Nat.le_of_dvd h1 hg
  omega

theorem lcgInit_range (sd : Nat) : 1 ≤ lcgInit sd ∧ lcgInit sd ≤ 2147483562 := by
  unfold lcgInit
  generalize (if sd = 0 then Config.lfcDefaultSeed else sd) = g
  dsimp only
  split <;> omega

theorem packWords_eq_sum (z : List SeedWord) :
    packWords z = ∑ t ∈ Finset.range z.length, (z.getD t 0).toNat * 2 ^ (32 * t) := by
  induction z with
  | nil => rfl
  | cons a z ih =>
    have hs : ∀ t, ((a :: z).getD (t + 1) 0).toNat * 2 ^ (32 * (t + 1)) =
        2 ^ 32 * ((z.getD t 0).toNat * 2 ^ (32 * t)) := by
      intro t
      rw [List.getD_cons_succ, mul_add, pow_add, mul_one]
      generalize 2 ^ 32 = m
      generalize 2 ^ (32 * t) = n
      ring
    have h0 : ((a :: z).getD 0 0).toNat * 2 ^ (32 * 0) = a.toNat := by
      rw [List.getD_cons_zero, mul_zero, pow_zero, mul_one]
    rw [packWords, ih, List.length_cons, Finset.sum_range_succ', Finset.mul_sum, add_comm, h0,
      Finset.sum_congr rfl fun t _ => hs t]

@[simp] theorem packGroups_length (w k n : Nat) (z : List SeedWord) : (packGroups w k n z).length = n := by
  simp [packGroups]

theorem packGroups_lt (w k n : Nat) (z : List SeedWord) : ∀ v ∈ packGroups w k n z, v < 2 ^ w := by
  intro v hv
  simp only [packGroups, List.mem_map] at hv
  obtain ⟨j, _, rfl⟩ := hv
  exact Nat.mod_lt _ (by positivity)

theorem packGroups_getD {w k n : Nat} {z : List SeedWord} (hz : z.length = n * k) {j : Nat} (hj : j < n) :
    (packGroups w k n z).getD j 0 =
      (∑ t ∈ Finset.range k, (z.getD (j * k + t) 0).toNat * 2 ^ (32 * t)) % 2 ^ w := by
  have hlen : ((z.drop (j * k)).take k).length = k := by
    have : j * k + k ≤ n * k := by nlinarith
    simp only [List.length_take, List.length_drop]
    omega
  have hget : (packGroups w k n z).getD j 0 = packWords ((z.drop (j * k)).take k) % 2 ^ w := by simp [packGroups, hj]
  rw [hget, packWords_eq_sum, hlen]
  congr 1
  apply Finset.sum_congr rfl
  intro t ht
  have := Finset.mem_range.mp ht
  congr 2
  simp [List.getD_eq_getElem?_getD, this]

theorem lfcHasPred_iff {c : Config} {st : LfcState} :
    lfcHasPred c st = true ↔ 0 ≤ lfcBackSum c st ∧ lfcBackSum c st ≤ ((2 ^ c.wL : Nat) : Int) := by
  unfold lfcHasPred
  rw [Bool.and_eq_true, decide_eq_true_iff, decide_eq_true_iff]

/-- What a backward step answers, when it answers. -/
theorem lfcBack_eq_some {c : Config} {st st' : LfcState} {y : Nat} (h : lfcBack c st = some (y, st')) :
    lfcHasPred c st = true ∧ y = st.slot (lfcPrev c st.i 1) ∧
      ∃ cp, cp = lfcBackCarry c st (lfcPrev c st.i 1) (lfcBackSum c st) ∧
        st' =
          { x := st.x.set (lfcPrev c st.i 1) (lfcBackSum c st - cp.toNat).toNat, i := lfcPrev c st.i 1, carry := cp } := by
  unfold lfcBack at h
  split at h
  · simp only [Option.some.injEq, Prod.mk.injEq] at h
    exact ⟨by assumption, h.1.symm, _, rfl, h.2.symm⟩
  · cases h

theorem lfcFwdN_succ (c : Config) (n : Nat) (st : LfcState) : lfcFwdN c (n + 1) st = lfcFwdN c n (lfcFwd c st).2 := rfl

/-! ## PHX -/

theorem phxWordsOk_iff {c : Config} {n : Nat} {ws : List Nat} :
    phxWordsOk c n ws = true ↔ ws.length = n ∧ ∀ v ∈ ws, v < 2 ^ c.wP := by
  simp [phxWordsOk]

theorem PhxState.wf_iff {c : Config} {st : PhxState} :
    st.wf c = true ↔ phxWordsOk c c.nP st.X = true ∧ phxWordsOk c (c.nP / 2) st.K = true ∧
      phxWordsOk c c.nP st.Y = true ∧ st.j < c.nP := by
  simp only [PhxState.wf, Bool.and_eq_true, decide_eq_true_eq, and_assoc]

theorem mulhilo_lt {c : Config} {a b : Nat} (ha : a < 2 ^ c.wP) (hb : b < 2 ^ c.wP) :
    (mulhilo c a b).1 < 2 ^ c.wP ∧ (mulhilo c a b).2 < 2 ^ c.wP := by
  refine ⟨?_, Nat.mod_lt _ (by positivity)⟩
  show a * b / 2 ^ c.wP < 2 ^ c.wP
  rw [Nat.div_lt_iff_lt_mul (by positivity)]
  exact Nat.mul_lt_mul'' ha hb

/-- The two halves of a product are the product. -/
theorem mulhilo_exact (c : Config) (a b : Nat) : (mulhilo c a b).1 * 2 ^ c.wP + (mulhilo c a b).2 = a * b :=
  Nat.div_add_mod' _ _

@[simp] theorem ctrWords_length (w n v : Nat) : (ctrWords w n v).length = n := by
  induction n generalizing v with
  | zero => rfl
  | succ n ih => simp [ctrWords, ih]

theorem ctrWords_lt (w n v : Nat) : ∀ d ∈ ctrWords w n v, d < 2 ^ w := by
  induction n generalizing v with
  | zero => simp [ctrWords]
  | succ n ih =>
    simp only [ctrWords, List.mem_cons]
    rintro d (rfl | h)
    · exact Nat.mod_lt _ (by positivity)
    · exact ih _ _ h

/-- The value of the words of a value. -/
theorem ctrValue_ctrWords (w n v : Nat) : ctrValue w (ctrWords w n v) = v % 2 ^ (w * n) := by
  induction n generalizing v with
  | zero => simp [ctrWords, ctrValue, Nat.mod_one]
  | succ n ih =>
    simp only [ctrWords, ctrValue, ih]
    rw [mul_add, mul_one, add_comm (w * n) w, pow_add, Nat.mod_mul]

/-- The words of the value of words. -/
theorem ctrWords_ctrValue {w : Nat} {X : List Nat} (h : ∀ v ∈ X, v < 2 ^ w) :
    ctrWords w X.length (ctrValue w X) = X := by
  induction X with
  | nil => rfl
  | cons a X ih =>
    have ha := h a (by simp)
    have hp : 0 < 2 ^ w := by positivity
    simp only [List.length_cons, ctrWords, ctrValue]
    rw [Nat.add_mul_mod_self_left, Nat.mod_eq_of_lt ha, Nat.add_mul_div_left _ _ hp, Nat.div_eq_of_lt ha, zero_add,
      ih fun v hv => h v (by simp [hv])]

theorem ctrValue_lt {w : Nat} {X : List Nat} (h : ∀ v ∈ X, v < 2 ^ w) : ctrValue w X < 2 ^ (w * X.length) := by
  have hv := ctrValue_ctrWords w X.length (ctrValue w X)
  rw [ctrWords_ctrValue h] at hv
  rw [hv]
  exact Nat.mod_lt _ (by positivity)

theorem phxInc_length (c : Config) (X : List Nat) : (phxInc c X).length = c.nP := ctrWords_length ..

theorem phxNextN_succ (c : Config) (v : Variant) (n : Nat) (st : PhxState) :
    phxNextN c v (n + 1) st = phxNextN c v n (phxNext c v st).2 := rfl

end Machine
end Sys2Proof
end

