-- ==== Sys2Proof/Laws/State.lean ====
section
/-! SUPPORT. One lemma per field per update of `State`, true by `rfl`, and what recording an error and resetting
leave of each field. -/

namespace Sys2Proof.Machine.State

variable (s : State)

/-! ### setArg0Lo -/

@[simp] theorem setArg0Lo_cfg (v : Word) : (s.setArg0Lo v).cfg = s.cfg := rfl
@[simp] theorem setArg0Lo_arg0Lo (v : Word) : (s.setArg0Lo v).arg0Lo = v := rfl
@[simp] theorem setArg0Lo_arg0Hi (v : Word) : (s.setArg0Lo v).arg0Hi = s.arg0Hi := rfl
@[simp] theorem setArg0Lo_arg1Lo (v : Word) : (s.setArg0Lo v).arg1Lo = s.arg1Lo := rfl
@[simp] theorem setArg0Lo_arg1Hi (v : Word) : (s.setArg0Lo v).arg1Hi = s.arg1Hi := rfl
@[simp] theorem setArg0Lo_resLo (v : Word) : (s.setArg0Lo v).resLo = s.resLo := rfl
@[simp] theorem setArg0Lo_resHi (v : Word) : (s.setArg0Lo v).resHi = s.resHi := rfl
@[simp] theorem setArg0Lo_err (v : Word) : (s.setArg0Lo v).err = s.err := rfl
@[simp] theorem setArg0Lo_eovf (v : Word) : (s.setArg0Lo v).eovf = s.eovf := rfl
@[simp] theorem setArg0Lo_ecode (v : Word) : (s.setArg0Lo v).ecode = s.ecode := rfl
@[simp] theorem setArg0Lo_pend (v : Word) : (s.setArg0Lo v).pend = s.pend := rfl
@[simp] theorem setArg0Lo_seedq (v : Word) : (s.setArg0Lo v).seedq = s.seedq := rfl
@[simp] theorem setArg0Lo_lfc (v : Word) : (s.setArg0Lo v).lfc = s.lfc := rfl
@[simp] theorem setArg0Lo_phx (v : Word) : (s.setArg0Lo v).phx = s.phx := rfl
@[simp] theorem setArg0Lo_host (v : Word) : (s.setArg0Lo v).host = s.host := rfl
@[simp] theorem setArg0Lo_turns (v : Word) : (s.setArg0Lo v).turns = s.turns := rfl
@[simp] theorem setArg0Lo_freeCtr (v : Word) : (s.setArg0Lo v).freeCtr = s.freeCtr := rfl

/-! ### setArg0Hi -/

@[simp] theorem setArg0Hi_cfg (v : Word) : (s.setArg0Hi v).cfg = s.cfg := rfl
@[simp] theorem setArg0Hi_arg0Lo (v : Word) : (s.setArg0Hi v).arg0Lo = s.arg0Lo := rfl
@[simp] theorem setArg0Hi_arg0Hi (v : Word) : (s.setArg0Hi v).arg0Hi = v := rfl
@[simp] theorem setArg0Hi_arg1Lo (v : Word) : (s.setArg0Hi v).arg1Lo = s.arg1Lo := rfl
@[simp] theorem setArg0Hi_arg1Hi (v : Word) : (s.setArg0Hi v).arg1Hi = s.arg1Hi := rfl
@[simp] theorem setArg0Hi_resLo (v : Word) : (s.setArg0Hi v).resLo = s.resLo := rfl
@[simp] theorem setArg0Hi_resHi (v : Word) : (s.setArg0Hi v).resHi = s.resHi := rfl
@[simp] theorem setArg0Hi_err (v : Word) : (s.setArg0Hi v).err = s.err := rfl
@[simp] theorem setArg0Hi_eovf (v : Word) : (s.setArg0Hi v).eovf = s.eovf := rfl
@[simp] theorem setArg0Hi_ecode (v : Word) : (s.setArg0Hi v).ecode = s.ecode := rfl
@[simp] theorem setArg0Hi_pend (v : Word) : (s.setArg0Hi v).pend = s.pend := rfl
@[simp] theorem setArg0Hi_seedq (v : Word) : (s.setArg0Hi v).seedq = s.seedq := rfl
@[simp] theorem setArg0Hi_lfc (v : Word) : (s.setArg0Hi v).lfc = s.lfc := rfl
@[simp] theorem setArg0Hi_phx (v : Word) : (s.setArg0Hi v).phx = s.phx := rfl
@[simp] theorem setArg0Hi_host (v : Word) : (s.setArg0Hi v).host = s.host := rfl
@[simp] theorem setArg0Hi_turns (v : Word) : (s.setArg0Hi v).turns = s.turns := rfl
@[simp] theorem setArg0Hi_freeCtr (v : Word) : (s.setArg0Hi v).freeCtr = s.freeCtr := rfl

/-! ### setArg1Lo -/

@[simp] theorem setArg1Lo_cfg (v : Word) : (s.setArg1Lo v).cfg = s.cfg := rfl
@[simp] theorem setArg1Lo_arg0Lo (v : Word) : (s.setArg1Lo v).arg0Lo = s.arg0Lo := rfl
@[simp] theorem setArg1Lo_arg0Hi (v : Word) : (s.setArg1Lo v).arg0Hi = s.arg0Hi := rfl
@[simp] theorem setArg1Lo_arg1Lo (v : Word) : (s.setArg1Lo v).arg1Lo = v := rfl
@[simp] theorem setArg1Lo_arg1Hi (v : Word) : (s.setArg1Lo v).arg1Hi = s.arg1Hi := rfl
@[simp] theorem setArg1Lo_resLo (v : Word) : (s.setArg1Lo v).resLo = s.resLo := rfl
@[simp] theorem setArg1Lo_resHi (v : Word) : (s.setArg1Lo v).resHi = s.resHi := rfl
@[simp] theorem setArg1Lo_err (v : Word) : (s.setArg1Lo v).err = s.err := rfl
@[simp] theorem setArg1Lo_eovf (v : Word) : (s.setArg1Lo v).eovf = s.eovf := rfl
@[simp] theorem setArg1Lo_ecode (v : Word) : (s.setArg1Lo v).ecode = s.ecode := rfl
@[simp] theorem setArg1Lo_pend (v : Word) : (s.setArg1Lo v).pend = s.pend := rfl
@[simp] theorem setArg1Lo_seedq (v : Word) : (s.setArg1Lo v).seedq = s.seedq := rfl
@[simp] theorem setArg1Lo_lfc (v : Word) : (s.setArg1Lo v).lfc = s.lfc := rfl
@[simp] theorem setArg1Lo_phx (v : Word) : (s.setArg1Lo v).phx = s.phx := rfl
@[simp] theorem setArg1Lo_host (v : Word) : (s.setArg1Lo v).host = s.host := rfl
@[simp] theorem setArg1Lo_turns (v : Word) : (s.setArg1Lo v).turns = s.turns := rfl
@[simp] theorem setArg1Lo_freeCtr (v : Word) : (s.setArg1Lo v).freeCtr = s.freeCtr := rfl

/-! ### setArg1Hi -/

@[simp] theorem setArg1Hi_cfg (v : Word) : (s.setArg1Hi v).cfg = s.cfg := rfl
@[simp] theorem setArg1Hi_arg0Lo (v : Word) : (s.setArg1Hi v).arg0Lo = s.arg0Lo := rfl
@[simp] theorem setArg1Hi_arg0Hi (v : Word) : (s.setArg1Hi v).arg0Hi = s.arg0Hi := rfl
@[simp] theorem setArg1Hi_arg1Lo (v : Word) : (s.setArg1Hi v).arg1Lo = s.arg1Lo := rfl
@[simp] theorem setArg1Hi_arg1Hi (v : Word) : (s.setArg1Hi v).arg1Hi = v := rfl
@[simp] theorem setArg1Hi_resLo (v : Word) : (s.setArg1Hi v).resLo = s.resLo := rfl
@[simp] theorem setArg1Hi_resHi (v : Word) : (s.setArg1Hi v).resHi = s.resHi := rfl
@[simp] theorem setArg1Hi_err (v : Word) : (s.setArg1Hi v).err = s.err := rfl
@[simp] theorem setArg1Hi_eovf (v : Word) : (s.setArg1Hi v).eovf = s.eovf := rfl
@[simp] theorem setArg1Hi_ecode (v : Word) : (s.setArg1Hi v).ecode = s.ecode := rfl
@[simp] theorem setArg1Hi_pend (v : Word) : (s.setArg1Hi v).pend = s.pend := rfl
@[simp] theorem setArg1Hi_seedq (v : Word) : (s.setArg1Hi v).seedq = s.seedq := rfl
@[simp] theorem setArg1Hi_lfc (v : Word) : (s.setArg1Hi v).lfc = s.lfc := rfl
@[simp] theorem setArg1Hi_phx (v : Word) : (s.setArg1Hi v).phx = s.phx := rfl
@[simp] theorem setArg1Hi_host (v : Word) : (s.setArg1Hi v).host = s.host := rfl
@[simp] theorem setArg1Hi_turns (v : Word) : (s.setArg1Hi v).turns = s.turns := rfl
@[simp] theorem setArg1Hi_freeCtr (v : Word) : (s.setArg1Hi v).freeCtr = s.freeCtr := rfl

/-! ### setRes -/

@[simp] theorem setRes_cfg (v : U128) : (s.setRes v).cfg = s.cfg := rfl
@[simp] theorem setRes_arg0Lo (v : U128) : (s.setRes v).arg0Lo = s.arg0Lo := rfl
@[simp] theorem setRes_arg0Hi (v : U128) : (s.setRes v).arg0Hi = s.arg0Hi := rfl
@[simp] theorem setRes_arg1Lo (v : U128) : (s.setRes v).arg1Lo = s.arg1Lo := rfl
@[simp] theorem setRes_arg1Hi (v : U128) : (s.setRes v).arg1Hi = s.arg1Hi := rfl
@[simp] theorem setRes_resLo (v : U128) : (s.setRes v).resLo = U128.lo v := rfl
@[simp] theorem setRes_resHi (v : U128) : (s.setRes v).resHi = U128.hi v := rfl
@[simp] theorem setRes_err (v : U128) : (s.setRes v).err = s.err := rfl
@[simp] theorem setRes_eovf (v : U128) : (s.setRes v).eovf = s.eovf := rfl
@[simp] theorem setRes_ecode (v : U128) : (s.setRes v).ecode = s.ecode := rfl
@[simp] theorem setRes_pend (v : U128) : (s.setRes v).pend = s.pend := rfl
@[simp] theorem setRes_seedq (v : U128) : (s.setRes v).seedq = s.seedq := rfl
@[simp] theorem setRes_lfc (v : U128) : (s.setRes v).lfc = s.lfc := rfl
@[simp] theorem setRes_phx (v : U128) : (s.setRes v).phx = s.phx := rfl
@[simp] theorem setRes_host (v : U128) : (s.setRes v).host = s.host := rfl
@[simp] theorem setRes_turns (v : U128) : (s.setRes v).turns = s.turns := rfl
@[simp] theorem setRes_freeCtr (v : U128) : (s.setRes v).freeCtr = s.freeCtr := rfl

/-! ### setPend -/

@[simp] theorem setPend_cfg (p : Option Pending) : (s.setPend p).cfg = s.cfg := rfl
@[simp] theorem setPend_arg0Lo (p : Option Pending) : (s.setPend p).arg0Lo = s.arg0Lo := rfl
@[simp] theorem setPend_arg0Hi (p : Option Pending) : (s.setPend p).arg0Hi = s.arg0Hi := rfl
@[simp] theorem setPend_arg1Lo (p : Option Pending) : (s.setPend p).arg1Lo = s.arg1Lo := rfl
@[simp] theorem setPend_arg1Hi (p : Option Pending) : (s.setPend p).arg1Hi = s.arg1Hi := rfl
@[simp] theorem setPend_resLo (p : Option Pending) : (s.setPend p).resLo = s.resLo := rfl
@[simp] theorem setPend_resHi (p : Option Pending) : (s.setPend p).resHi = s.resHi := rfl
@[simp] theorem setPend_err (p : Option Pending) : (s.setPend p).err = s.err := rfl
@[simp] theorem setPend_eovf (p : Option Pending) : (s.setPend p).eovf = s.eovf := rfl
@[simp] theorem setPend_ecode (p : Option Pending) : (s.setPend p).ecode = s.ecode := rfl
@[simp] theorem setPend_pend (p : Option Pending) : (s.setPend p).pend = p := rfl
@[simp] theorem setPend_seedq (p : Option Pending) : (s.setPend p).seedq = s.seedq := rfl
@[simp] theorem setPend_lfc (p : Option Pending) : (s.setPend p).lfc = s.lfc := rfl
@[simp] theorem setPend_phx (p : Option Pending) : (s.setPend p).phx = s.phx := rfl
@[simp] theorem setPend_host (p : Option Pending) : (s.setPend p).host = s.host := rfl
@[simp] theorem setPend_turns (p : Option Pending) : (s.setPend p).turns = s.turns := rfl
@[simp] theorem setPend_freeCtr (p : Option Pending) : (s.setPend p).freeCtr = s.freeCtr := rfl

/-! ### setSeedq -/

@[simp] theorem setSeedq_cfg (q : List SeedWord) : (s.setSeedq q).cfg = s.cfg := rfl
@[simp] theorem setSeedq_arg0Lo (q : List SeedWord) : (s.setSeedq q).arg0Lo = s.arg0Lo := rfl
@[simp] theorem setSeedq_arg0Hi (q : List SeedWord) : (s.setSeedq q).arg0Hi = s.arg0Hi := rfl
@[simp] theorem setSeedq_arg1Lo (q : List SeedWord) : (s.setSeedq q).arg1Lo = s.arg1Lo := rfl
@[simp] theorem setSeedq_arg1Hi (q : List SeedWord) : (s.setSeedq q).arg1Hi = s.arg1Hi := rfl
@[simp] theorem setSeedq_resLo (q : List SeedWord) : (s.setSeedq q).resLo = s.resLo := rfl
@[simp] theorem setSeedq_resHi (q : List SeedWord) : (s.setSeedq q).resHi = s.resHi := rfl
@[simp] theorem setSeedq_err (q : List SeedWord) : (s.setSeedq q).err = s.err := rfl
@[simp] theorem setSeedq_eovf (q : List SeedWord) : (s.setSeedq q).eovf = s.eovf := rfl
@[simp] theorem setSeedq_ecode (q : List SeedWord) : (s.setSeedq q).ecode = s.ecode := rfl
@[simp] theorem setSeedq_pend (q : List SeedWord) : (s.setSeedq q).pend = s.pend := rfl
@[simp] theorem setSeedq_seedq (q : List SeedWord) : (s.setSeedq q).seedq = q := rfl
@[simp] theorem setSeedq_lfc (q : List SeedWord) : (s.setSeedq q).lfc = s.lfc := rfl
@[simp] theorem setSeedq_phx (q : List SeedWord) : (s.setSeedq q).phx = s.phx := rfl
@[simp] theorem setSeedq_host (q : List SeedWord) : (s.setSeedq q).host = s.host := rfl
@[simp] theorem setSeedq_turns (q : List SeedWord) : (s.setSeedq q).turns = s.turns := rfl
@[simp] theorem setSeedq_freeCtr (q : List SeedWord) : (s.setSeedq q).freeCtr = s.freeCtr := rfl

/-! ### setLfc -/

@[simp] theorem setLfc_cfg (n : Inst) (v : LfcInst) : (s.setLfc n v).cfg = s.cfg := rfl
@[simp] theorem setLfc_arg0Lo (n : Inst) (v : LfcInst) : (s.setLfc n v).arg0Lo = s.arg0Lo := rfl
@[simp] theorem setLfc_arg0Hi (n : Inst) (v : LfcInst) : (s.setLfc n v).arg0Hi = s.arg0Hi := rfl
@[simp] theorem setLfc_arg1Lo (n : Inst) (v : LfcInst) : (s.setLfc n v).arg1Lo = s.arg1Lo := rfl
@[simp] theorem setLfc_arg1Hi (n : Inst) (v : LfcInst) : (s.setLfc n v).arg1Hi = s.arg1Hi := rfl
@[simp] theorem setLfc_resLo (n : Inst) (v : LfcInst) : (s.setLfc n v).resLo = s.resLo := rfl
@[simp] theorem setLfc_resHi (n : Inst) (v : LfcInst) : (s.setLfc n v).resHi = s.resHi := rfl
@[simp] theorem setLfc_err (n : Inst) (v : LfcInst) : (s.setLfc n v).err = s.err := rfl
@[simp] theorem setLfc_eovf (n : Inst) (v : LfcInst) : (s.setLfc n v).eovf = s.eovf := rfl
@[simp] theorem setLfc_ecode (n : Inst) (v : LfcInst) : (s.setLfc n v).ecode = s.ecode := rfl
@[simp] theorem setLfc_pend (n : Inst) (v : LfcInst) : (s.setLfc n v).pend = s.pend := rfl
@[simp] theorem setLfc_seedq (n : Inst) (v : LfcInst) : (s.setLfc n v).seedq = s.seedq := rfl
@[simp] theorem setLfc_lfc (n : Inst) (v : LfcInst) : (s.setLfc n v).lfc = s.lfc.set n v := rfl
@[simp] theorem setLfc_phx (n : Inst) (v : LfcInst) : (s.setLfc n v).phx = s.phx := rfl
@[simp] theorem setLfc_host (n : Inst) (v : LfcInst) : (s.setLfc n v).host = s.host := rfl
@[simp] theorem setLfc_turns (n : Inst) (v : LfcInst) : (s.setLfc n v).turns = s.turns := rfl
@[simp] theorem setLfc_freeCtr (n : Inst) (v : LfcInst) : (s.setLfc n v).freeCtr = s.freeCtr := rfl

/-! ### setPhx -/

@[simp] theorem setPhx_cfg (n : Inst) (v : PhxInst) : (s.setPhx n v).cfg = s.cfg := rfl
@[simp] theorem setPhx_arg0Lo (n : Inst) (v : PhxInst) : (s.setPhx n v).arg0Lo = s.arg0Lo := rfl
@[simp] theorem setPhx_arg0Hi (n : Inst) (v : PhxInst) : (s.setPhx n v).arg0Hi = s.arg0Hi := rfl
@[simp] theorem setPhx_arg1Lo (n : Inst) (v : PhxInst) : (s.setPhx n v).arg1Lo = s.arg1Lo := rfl
@[simp] theorem setPhx_arg1Hi (n : Inst) (v : PhxInst) : (s.setPhx n v).arg1Hi = s.arg1Hi := rfl
@[simp] theorem setPhx_resLo (n : Inst) (v : PhxInst) : (s.setPhx n v).resLo = s.resLo := rfl
@[simp] theorem setPhx_resHi (n : Inst) (v : PhxInst) : (s.setPhx n v).resHi = s.resHi := rfl
@[simp] theorem setPhx_err (n : Inst) (v : PhxInst) : (s.setPhx n v).err = s.err := rfl
@[simp] theorem setPhx_eovf (n : Inst) (v : PhxInst) : (s.setPhx n v).eovf = s.eovf := rfl
@[simp] theorem setPhx_ecode (n : Inst) (v : PhxInst) : (s.setPhx n v).ecode = s.ecode := rfl
@[simp] theorem setPhx_pend (n : Inst) (v : PhxInst) : (s.setPhx n v).pend = s.pend := rfl
@[simp] theorem setPhx_seedq (n : Inst) (v : PhxInst) : (s.setPhx n v).seedq = s.seedq := rfl
@[simp] theorem setPhx_lfc (n : Inst) (v : PhxInst) : (s.setPhx n v).lfc = s.lfc := rfl
@[simp] theorem setPhx_phx (n : Inst) (v : PhxInst) : (s.setPhx n v).phx = s.phx.set n v := rfl
@[simp] theorem setPhx_host (n : Inst) (v : PhxInst) : (s.setPhx n v).host = s.host := rfl
@[simp] theorem setPhx_turns (n : Inst) (v : PhxInst) : (s.setPhx n v).turns = s.turns := rfl
@[simp] theorem setPhx_freeCtr (n : Inst) (v : PhxInst) : (s.setPhx n v).freeCtr = s.freeCtr := rfl

/-! ### setHost -/

@[simp] theorem setHost_cfg (h : HostAgent) : (s.setHost h).cfg = s.cfg := rfl
@[simp] theorem setHost_arg0Lo (h : HostAgent) : (s.setHost h).arg0Lo = s.arg0Lo := rfl
@[simp] theorem setHost_arg0Hi (h : HostAgent) : (s.setHost h).arg0Hi = s.arg0Hi := rfl
@[simp] theorem setHost_arg1Lo (h : HostAgent) : (s.setHost h).arg1Lo = s.arg1Lo := rfl
@[simp] theorem setHost_arg1Hi (h : HostAgent) : (s.setHost h).arg1Hi = s.arg1Hi := rfl
@[simp] theorem setHost_resLo (h : HostAgent) : (s.setHost h).resLo = s.resLo := rfl
@[simp] theorem setHost_resHi (h : HostAgent) : (s.setHost h).resHi = s.resHi := rfl
@[simp] theorem setHost_err (h : HostAgent) : (s.setHost h).err = s.err := rfl
@[simp] theorem setHost_eovf (h : HostAgent) : (s.setHost h).eovf = s.eovf := rfl
@[simp] theorem setHost_ecode (h : HostAgent) : (s.setHost h).ecode = s.ecode := rfl
@[simp] theorem setHost_pend (h : HostAgent) : (s.setHost h).pend = s.pend := rfl
@[simp] theorem setHost_seedq (h : HostAgent) : (s.setHost h).seedq = s.seedq := rfl
@[simp] theorem setHost_lfc (h : HostAgent) : (s.setHost h).lfc = s.lfc := rfl
@[simp] theorem setHost_phx (h : HostAgent) : (s.setHost h).phx = s.phx := rfl
@[simp] theorem setHost_host (h : HostAgent) : (s.setHost h).host = h := rfl
@[simp] theorem setHost_turns (h : HostAgent) : (s.setHost h).turns = s.turns := rfl
@[simp] theorem setHost_freeCtr (h : HostAgent) : (s.setHost h).freeCtr = s.freeCtr := rfl

/-! ### setTurns -/

@[simp] theorem setTurns_cfg (ts : List Turn) : (s.setTurns ts).cfg = s.cfg := rfl
@[simp] theorem setTurns_arg0Lo (ts : List Turn) : (s.setTurns ts).arg0Lo = s.arg0Lo := rfl
@[simp] theorem setTurns_arg0Hi (ts : List Turn) : (s.setTurns ts).arg0Hi = s.arg0Hi := rfl
@[simp] theorem setTurns_arg1Lo (ts : List Turn) : (s.setTurns ts).arg1Lo = s.arg1Lo := rfl
@[simp] theorem setTurns_arg1Hi (ts : List Turn) : (s.setTurns ts).arg1Hi = s.arg1Hi := rfl
@[simp] theorem setTurns_resLo (ts : List Turn) : (s.setTurns ts).resLo = s.resLo := rfl
@[simp] theorem setTurns_resHi (ts : List Turn) : (s.setTurns ts).resHi = s.resHi := rfl
@[simp] theorem setTurns_err (ts : List Turn) : (s.setTurns ts).err = s.err := rfl
@[simp] theorem setTurns_eovf (ts : List Turn) : (s.setTurns ts).eovf = s.eovf := rfl
@[simp] theorem setTurns_ecode (ts : List Turn) : (s.setTurns ts).ecode = s.ecode := rfl
@[simp] theorem setTurns_pend (ts : List Turn) : (s.setTurns ts).pend = s.pend := rfl
@[simp] theorem setTurns_seedq (ts : List Turn) : (s.setTurns ts).seedq = s.seedq := rfl
@[simp] theorem setTurns_lfc (ts : List Turn) : (s.setTurns ts).lfc = s.lfc := rfl
@[simp] theorem setTurns_phx (ts : List Turn) : (s.setTurns ts).phx = s.phx := rfl
@[simp] theorem setTurns_host (ts : List Turn) : (s.setTurns ts).host = s.host := rfl
@[simp] theorem setTurns_turns (ts : List Turn) : (s.setTurns ts).turns = ts := rfl
@[simp] theorem setTurns_freeCtr (ts : List Turn) : (s.setTurns ts).freeCtr = s.freeCtr := rfl

/-! ### setFreeCtr -/

@[simp] theorem setFreeCtr_cfg (k : Nat) : (s.setFreeCtr k).cfg = s.cfg := rfl
@[simp] theorem setFreeCtr_arg0Lo (k : Nat) : (s.setFreeCtr k).arg0Lo = s.arg0Lo := rfl
@[simp] theorem setFreeCtr_arg0Hi (k : Nat) : (s.setFreeCtr k).arg0Hi = s.arg0Hi := rfl
@[simp] theorem setFreeCtr_arg1Lo (k : Nat) : (s.setFreeCtr k).arg1Lo = s.arg1Lo := rfl
@[simp] theorem setFreeCtr_arg1Hi (k : Nat) : (s.setFreeCtr k).arg1Hi = s.arg1Hi := rfl
@[simp] theorem setFreeCtr_resLo (k : Nat) : (s.setFreeCtr k).resLo = s.resLo := rfl
@[simp] theorem setFreeCtr_resHi (k : Nat) : (s.setFreeCtr k).resHi = s.resHi := rfl
@[simp] theorem setFreeCtr_err (k : Nat) : (s.setFreeCtr k).err = s.err := rfl
@[simp] theorem setFreeCtr_eovf (k : Nat) : (s.setFreeCtr k).eovf = s.eovf := rfl
@[simp] theorem setFreeCtr_ecode (k : Nat) : (s.setFreeCtr k).ecode = s.ecode := rfl
@[simp] theorem setFreeCtr_pend (k : Nat) : (s.setFreeCtr k).pend = s.pend := rfl
@[simp] theorem setFreeCtr_seedq (k : Nat) : (s.setFreeCtr k).seedq = s.seedq := rfl
@[simp] theorem setFreeCtr_lfc (k : Nat) : (s.setFreeCtr k).lfc = s.lfc := rfl
@[simp] theorem setFreeCtr_phx (k : Nat) : (s.setFreeCtr k).phx = s.phx := rfl
@[simp] theorem setFreeCtr_host (k : Nat) : (s.setFreeCtr k).host = s.host := rfl
@[simp] theorem setFreeCtr_turns (k : Nat) : (s.setFreeCtr k).turns = s.turns := rfl
@[simp] theorem setFreeCtr_freeCtr (k : Nat) : (s.setFreeCtr k).freeCtr = k := rfl

/-! ### clearError -/

@[simp] theorem clearError_cfg : (s.clearError).cfg = s.cfg := rfl
@[simp] theorem clearError_arg0Lo : (s.clearError).arg0Lo = s.arg0Lo := rfl
@[simp] theorem clearError_arg0Hi : (s.clearError).arg0Hi = s.arg0Hi := rfl
@[simp] theorem clearError_arg1Lo : (s.clearError).arg1Lo = s.arg1Lo := rfl
@[simp] theorem clearError_arg1Hi : (s.clearError).arg1Hi = s.arg1Hi := rfl
@[simp] theorem clearError_resLo : (s.clearError).resLo = s.resLo := rfl
@[simp] theorem clearError_resHi : (s.clearError).resHi = s.resHi := rfl
@[simp] theorem clearError_err : (s.clearError).err = false := rfl
@[simp] theorem clearError_eovf : (s.clearError).eovf = false := rfl
@[simp] theorem clearError_ecode : (s.clearError).ecode = 0 := rfl
@[simp] theorem clearError_pend : (s.clearError).pend = s.pend := rfl
@[simp] theorem clearError_seedq : (s.clearError).seedq = s.seedq := rfl
@[simp] theorem clearError_lfc : (s.clearError).lfc = s.lfc := rfl
@[simp] theorem clearError_phx : (s.clearError).phx = s.phx := rfl
@[simp] theorem clearError_host : (s.clearError).host = s.host := rfl
@[simp] theorem clearError_turns : (s.clearError).turns = s.turns := rfl
@[simp] theorem clearError_freeCtr : (s.clearError).freeCtr = s.freeCtr := rfl

/-! ### complete -/

@[simp] theorem complete_cfg : (s.complete).cfg = s.cfg := rfl
@[simp] theorem complete_arg0Lo : (s.complete).arg0Lo = s.arg0Lo := rfl
@[simp] theorem complete_arg0Hi : (s.complete).arg0Hi = s.arg0Hi := rfl
@[simp] theorem complete_arg1Lo : (s.complete).arg1Lo = s.arg1Lo := rfl
@[simp] theorem complete_arg1Hi : (s.complete).arg1Hi = s.arg1Hi := rfl
@[simp] theorem complete_resLo : (s.complete).resLo = s.resLo := rfl
@[simp] theorem complete_resHi : (s.complete).resHi = s.resHi := rfl
@[simp] theorem complete_err : (s.complete).err = s.err := rfl
@[simp] theorem complete_eovf : (s.complete).eovf = s.eovf := rfl
@[simp] theorem complete_ecode : (s.complete).ecode = s.ecode := rfl
@[simp] theorem complete_pend : (s.complete).pend = none := rfl
@[simp] theorem complete_seedq : (s.complete).seedq = s.seedq := rfl
@[simp] theorem complete_lfc : (s.complete).lfc = s.lfc := rfl
@[simp] theorem complete_phx : (s.complete).phx = s.phx := rfl
@[simp] theorem complete_host : (s.complete).host = s.host := rfl
@[simp] theorem complete_turns : (s.complete).turns = s.turns := rfl
@[simp] theorem complete_freeCtr : (s.complete).freeCtr = s.freeCtr := rfl

/-! ### stepLfc -/

@[simp] theorem stepLfc_cfg (n : Inst) (v : LfcState) : (s.stepLfc n v).cfg = s.cfg := rfl
@[simp] theorem stepLfc_arg0Lo (n : Inst) (v : LfcState) : (s.stepLfc n v).arg0Lo = s.arg0Lo := rfl
@[simp] theorem stepLfc_arg0Hi (n : Inst) (v : LfcState) : (s.stepLfc n v).arg0Hi = s.arg0Hi := rfl
@[simp] theorem stepLfc_arg1Lo (n : Inst) (v : LfcState) : (s.stepLfc n v).arg1Lo = s.arg1Lo := rfl
@[simp] theorem stepLfc_arg1Hi (n : Inst) (v : LfcState) : (s.stepLfc n v).arg1Hi = s.arg1Hi := rfl
@[simp] theorem stepLfc_resLo (n : Inst) (v : LfcState) : (s.stepLfc n v).resLo = s.resLo := rfl
@[simp] theorem stepLfc_resHi (n : Inst) (v : LfcState) : (s.stepLfc n v).resHi = s.resHi := rfl
@[simp] theorem stepLfc_err (n : Inst) (v : LfcState) : (s.stepLfc n v).err = s.err := rfl
@[simp] theorem stepLfc_eovf (n : Inst) (v : LfcState) : (s.stepLfc n v).eovf = s.eovf := rfl
@[simp] theorem stepLfc_ecode (n : Inst) (v : LfcState) : (s.stepLfc n v).ecode = s.ecode := rfl
@[simp] theorem stepLfc_pend (n : Inst) (v : LfcState) : (s.stepLfc n v).pend = s.pend := rfl
@[simp] theorem stepLfc_seedq (n : Inst) (v : LfcState) : (s.stepLfc n v).seedq = s.seedq := rfl
@[simp] theorem stepLfc_lfc (n : Inst) (v : LfcState) : (s.stepLfc n v).lfc = s.lfc.set n { seeded := (s.lfc.get n).seeded, st := v } := rfl
@[simp] theorem stepLfc_phx (n : Inst) (v : LfcState) : (s.stepLfc n v).phx = s.phx := rfl
@[simp] theorem stepLfc_host (n : Inst) (v : LfcState) : (s.stepLfc n v).host = s.host := rfl
@[simp] theorem stepLfc_turns (n : Inst) (v : LfcState) : (s.stepLfc n v).turns = s.turns := rfl
@[simp] theorem stepLfc_freeCtr (n : Inst) (v : LfcState) : (s.stepLfc n v).freeCtr = s.freeCtr := rfl

/-! ### stepPhx -/

@[simp] theorem stepPhx_cfg (n : Inst) (v : PhxState) : (s.stepPhx n v).cfg = s.cfg := rfl
@[simp] theorem stepPhx_arg0Lo (n : Inst) (v : PhxState) : (s.stepPhx n v).arg0Lo = s.arg0Lo := rfl
@[simp] theorem stepPhx_arg0Hi (n : Inst) (v : PhxState) : (s.stepPhx n v).arg0Hi = s.arg0Hi := rfl
@[simp] theorem stepPhx_arg1Lo (n : Inst) (v : PhxState) : (s.stepPhx n v).arg1Lo = s.arg1Lo := rfl
@[simp] theorem stepPhx_arg1Hi (n : Inst) (v : PhxState) : (s.stepPhx n v).arg1Hi = s.arg1Hi := rfl
@[simp] theorem stepPhx_resLo (n : Inst) (v : PhxState) : (s.stepPhx n v).resLo = s.resLo := rfl
@[simp] theorem stepPhx_resHi (n : Inst) (v : PhxState) : (s.stepPhx n v).resHi = s.resHi := rfl
@[simp] theorem stepPhx_err (n : Inst) (v : PhxState) : (s.stepPhx n v).err = s.err := rfl
@[simp] theorem stepPhx_eovf (n : Inst) (v : PhxState) : (s.stepPhx n v).eovf = s.eovf := rfl
@[simp] theorem stepPhx_ecode (n : Inst) (v : PhxState) : (s.stepPhx n v).ecode = s.ecode := rfl
@[simp] theorem stepPhx_pend (n : Inst) (v : PhxState) : (s.stepPhx n v).pend = s.pend := rfl
@[simp] theorem stepPhx_seedq (n : Inst) (v : PhxState) : (s.stepPhx n v).seedq = s.seedq := rfl
@[simp] theorem stepPhx_lfc (n : Inst) (v : PhxState) : (s.stepPhx n v).lfc = s.lfc := rfl
@[simp] theorem stepPhx_phx (n : Inst) (v : PhxState) : (s.stepPhx n v).phx = s.phx.set n { seeded := (s.phx.get n).seeded, st := v } := rfl
@[simp] theorem stepPhx_host (n : Inst) (v : PhxState) : (s.stepPhx n v).host = s.host := rfl
@[simp] theorem stepPhx_turns (n : Inst) (v : PhxState) : (s.stepPhx n v).turns = s.turns := rfl
@[simp] theorem stepPhx_freeCtr (n : Inst) (v : PhxState) : (s.stepPhx n v).freeCtr = s.freeCtr := rfl

/-! ### raise -/

@[simp] theorem raise_cfg (e : ErrCode) : (s.raise e).cfg = s.cfg := by unfold raise; split <;> rfl
@[simp] theorem raise_arg0Lo (e : ErrCode) : (s.raise e).arg0Lo = s.arg0Lo := by unfold raise; split <;> rfl
@[simp] theorem raise_arg0Hi (e : ErrCode) : (s.raise e).arg0Hi = s.arg0Hi := by unfold raise; split <;> rfl
@[simp] theorem raise_arg1Lo (e : ErrCode) : (s.raise e).arg1Lo = s.arg1Lo := by unfold raise; split <;> rfl
@[simp] theorem raise_arg1Hi (e : ErrCode) : (s.raise e).arg1Hi = s.arg1Hi := by unfold raise; split <;> rfl
@[simp] theorem raise_resLo (e : ErrCode) : (s.raise e).resLo = s.resLo := by unfold raise; split <;> rfl
@[simp] theorem raise_resHi (e : ErrCode) : (s.raise e).resHi = s.resHi := by unfold raise; split <;> rfl
@[simp] theorem raise_pend (e : ErrCode) : (s.raise e).pend = s.pend := by unfold raise; split <;> rfl
@[simp] theorem raise_seedq (e : ErrCode) : (s.raise e).seedq = s.seedq := by unfold raise; split <;> rfl
@[simp] theorem raise_lfc (e : ErrCode) : (s.raise e).lfc = s.lfc := by unfold raise; split <;> rfl
@[simp] theorem raise_phx (e : ErrCode) : (s.raise e).phx = s.phx := by unfold raise; split <;> rfl
@[simp] theorem raise_host (e : ErrCode) : (s.raise e).host = s.host := by unfold raise; split <;> rfl
@[simp] theorem raise_turns (e : ErrCode) : (s.raise e).turns = s.turns := by unfold raise; split <;> rfl
@[simp] theorem raise_freeCtr (e : ErrCode) : (s.raise e).freeCtr = s.freeCtr := by unfold raise; split <;> rfl
@[simp] theorem raise_err (e : ErrCode) : (s.raise e).err = true := by unfold raise; split <;> simp_all
theorem raise_eovf (e : ErrCode) : (s.raise e).eovf = (s.eovf || s.err) := by unfold raise; split <;> simp_all
theorem raise_ecode (e : ErrCode) : (s.raise e).ecode = if s.err then s.ecode else e.code := by
  unfold raise; split <;> rfl

/-! ### busError -/

@[simp] theorem busError_cfg : s.busError.cfg = s.cfg := by simp [busError]
@[simp] theorem busError_arg0Lo : s.busError.arg0Lo = s.arg0Lo := by simp [busError]
@[simp] theorem busError_arg0Hi : s.busError.arg0Hi = s.arg0Hi := by simp [busError]
@[simp] theorem busError_arg1Lo : s.busError.arg1Lo = s.arg1Lo := by simp [busError]
@[simp] theorem busError_arg1Hi : s.busError.arg1Hi = s.arg1Hi := by simp [busError]
@[simp] theorem busError_resLo : s.busError.resLo = s.resLo := by simp [busError]
@[simp] theorem busError_resHi : s.busError.resHi = s.resHi := by simp [busError]
@[simp] theorem busError_pend : s.busError.pend = s.pend := by simp [busError]
@[simp] theorem busError_seedq : s.busError.seedq = s.seedq := by simp [busError]
@[simp] theorem busError_lfc : s.busError.lfc = s.lfc := by simp [busError]
@[simp] theorem busError_phx : s.busError.phx = s.phx := by simp [busError]
@[simp] theorem busError_turns : s.busError.turns = s.turns := by simp [busError]
@[simp] theorem busError_freeCtr : s.busError.freeCtr = s.freeCtr := by simp [busError]
@[simp] theorem busError_host : s.busError.host = { s.host with busFault := true } := rfl
@[simp] theorem busError_err : s.busError.err = true := by simp [busError]
theorem busError_eovf : s.busError.eovf = (s.eovf || s.err) := by simp [busError, raise_eovf]
theorem busError_ecode : s.busError.ecode = if s.err then s.ecode else ErrCode.code .bus := by
  simp [busError, raise_ecode]

/-! ### resetBlock -/

@[simp] theorem resetBlock_cfg : s.resetBlock.cfg = s.cfg := rfl
@[simp] theorem resetBlock_arg0Lo : s.resetBlock.arg0Lo = (State.resetOf s.cfg).arg0Lo := rfl
@[simp] theorem resetBlock_arg0Hi : s.resetBlock.arg0Hi = (State.resetOf s.cfg).arg0Hi := rfl
@[simp] theorem resetBlock_arg1Lo : s.resetBlock.arg1Lo = (State.resetOf s.cfg).arg1Lo := rfl
@[simp] theorem resetBlock_arg1Hi : s.resetBlock.arg1Hi = (State.resetOf s.cfg).arg1Hi := rfl
@[simp] theorem resetBlock_resLo : s.resetBlock.resLo = (State.resetOf s.cfg).resLo := rfl
@[simp] theorem resetBlock_resHi : s.resetBlock.resHi = (State.resetOf s.cfg).resHi := rfl
@[simp] theorem resetBlock_err : s.resetBlock.err = (State.resetOf s.cfg).err := rfl
@[simp] theorem resetBlock_eovf : s.resetBlock.eovf = (State.resetOf s.cfg).eovf := rfl
@[simp] theorem resetBlock_ecode : s.resetBlock.ecode = (State.resetOf s.cfg).ecode := rfl
@[simp] theorem resetBlock_pend : s.resetBlock.pend = (State.resetOf s.cfg).pend := rfl
@[simp] theorem resetBlock_seedq : s.resetBlock.seedq = (State.resetOf s.cfg).seedq := rfl
@[simp] theorem resetBlock_lfc : s.resetBlock.lfc = (State.resetOf s.cfg).lfc := rfl
@[simp] theorem resetBlock_phx : s.resetBlock.phx = (State.resetOf s.cfg).phx := rfl
@[simp] theorem resetBlock_host : s.resetBlock.host = s.host := rfl
@[simp] theorem resetBlock_turns : s.resetBlock.turns = s.turns := rfl
@[simp] theorem resetBlock_freeCtr : s.resetBlock.freeCtr = s.freeCtr := rfl

end Sys2Proof.Machine.State
end

