-- ==== Sys2Proof/Laws/Ops.lean ====
section
/-! SUPPORT. What each shared operation can do, said once: pairs, the FIFO, issue, the life cycle, the ends of a
perform, and `exec` while no command is pending. -/

namespace Sys2Proof

@[simp] theorem U128.hi_ofHalves (hi lo : Word) : U128.hi (U128.ofHalves hi lo) = hi := by
  unfold U128.hi U128.ofHalves
  apply BitVec.eq_of_getLsbD_eq
  intro k hk
  simp only [BitVec.getLsbD_extractLsb', hk, decide_true, Bool.true_and, BitVec.getLsbD_append]
  simp

@[simp] theorem U128.lo_ofHalves (hi lo : Word) : U128.lo (U128.ofHalves hi lo) = lo := by
  unfold U128.lo U128.ofHalves
  apply BitVec.eq_of_getLsbD_eq
  intro k hk
  simp only [BitVec.getLsbD_extractLsb', hk, decide_true, Bool.true_and, BitVec.getLsbD_append]
  simp [hk]

theorem U128.toNat_ofHalves (hi lo : Word) : (U128.ofHalves hi lo).toNat = hi.toNat * 2 ^ 64 + lo.toNat := by
  unfold U128.ofHalves
  rw [BitVec.toNat_append, ← Nat.shiftLeft_add_eq_or_of_lt lo.isLt, Nat.shiftLeft_eq]

@[simp] theorem U128.lo_toNat (v : U128) : (U128.lo v).toNat = v.toNat % 2 ^ 64 := by
  simp [U128.lo, BitVec.extractLsb'_toNat]

@[simp] theorem U128.hi_toNat (v : U128) : (U128.hi v).toNat = v.toNat / 2 ^ 64 := by
  have h := v.isLt
  simp only [U128.hi, BitVec.extractLsb'_toNat, Nat.shiftRight_eq_div_pow]
  omega

@[simp] theorem U128.ofHalves_hi_lo (v : U128) : U128.ofHalves (U128.hi v) (U128.lo v) = v := by
  apply BitVec.eq_of_toNat_eq
  rw [U128.toNat_ofHalves, U128.lo_toNat, U128.hi_toNat]
  omega

namespace Machine

/-! ## Pairs -/

@[simp] theorem Pair.get_set_same {α : Type} (p : Pair α) (n : Inst) (a : α) : (p.set n a).get n = a := by
  cases n <;> rfl

theorem Pair.get_set_other {α : Type} (p : Pair α) {n m : Inst} (h : m ≠ n) (a : α) :
    (p.set n a).get m = p.get m := by
  cases n <;> cases m <;> first | rfl | exact absurd rfl h

theorem Pair.get_set {α : Type} (p : Pair α) (n m : Inst) (a : α) :
    (p.set n a).get m = if m = n then a else p.get m := by
  by_cases h : m = n
  · subst h; simp
  · simp [h, Pair.get_set_other p h]

@[simp] theorem Pair.get_i0 {α : Type} (p : Pair α) : p.get .i0 = p.i0 := rfl

@[simp] theorem Pair.get_i1 {α : Type} (p : Pair α) : p.get .i1 = p.i1 := rfl

@[simp] theorem State.setRes_res (s : State) (v : U128) : (s.setRes v).res = v := by
  simp [State.res]

@[simp] theorem State.complete_res (s : State) : s.complete.res = s.res := rfl

/-! ## The FIFO -/

theorem seedWords_eq_none {n : Nat} {q : List SeedWord} : seedWords n q = none ↔ q.length < n := by
  unfold seedWords
  split <;> simp_all

theorem seedWords_eq_some {n : Nat} {q words rest : List SeedWord} (h : seedWords n q = some (words, rest)) :
    n ≤ q.length ∧ words = q.take n ∧ rest = q.drop n := by
  unfold seedWords at h
  split at h
  · exact absurd h (by simp)
  · simp only [Option.some.injEq, Prod.mk.injEq] at h
    exact ⟨by omega, h.1.symm, h.2.symm⟩

@[simp] theorem seedWords_zero (q : List SeedWord) : seedWords 0 q = some ([], q) := by simp [seedWords]

/-! ## Issue -/

/-- Everything an issue can do: record the failing check, record the underflow, or latch the command. -/
theorem State.issue_cases (s : State) (i : Instr) :
    (∃ e, issueCheck i s.opB s = some e ∧ s.issue i = s.raise e) ∨
    (issueCheck i s.opB s = none ∧ s.seedq.length < wordsNeeded s.cfg i ∧ s.issue i = s.raise .seedqUnderflow) ∨
    (issueCheck i s.opB s = none ∧ wordsNeeded s.cfg i ≤ s.seedq.length ∧
      s.issue i = (s.setSeedq (s.seedq.drop (wordsNeeded s.cfg i))).setPend
        (some { cmd := i, a := s.opA, b := s.opB, words := s.seedq.take (wordsNeeded s.cfg i) })) := by
  unfold State.issue
  split
  · exact .inl ⟨_, by assumption, rfl⟩
  · right
    split
    · exact .inl ⟨by assumption, seedWords_eq_none.mp (by assumption), rfl⟩
    · obtain ⟨hle, rfl, rfl⟩ := seedWords_eq_some (by assumption)
      exact .inr ⟨by assumption, hle, rfl⟩

/-- A command that no check of R109 stops and that takes no seed words issues. -/
theorem State.issue_free {s : State} {i : Instr} (hc : issueCheck i s.opB s = none) (hw : wordsNeeded s.cfg i = 0) :
    s.issue i = s.setPend (some { cmd := i, a := s.opA, b := s.opB, words := [] }) := by
  simp only [State.issue, hc, hw, seedWords_zero]
  rfl

/-! ## The life cycle -/

theorem command_idle {s : State} (i : Instr) (eff : Pending → State → Result) (h : s.pend = none) :
    command i eff s = .next (s.issue i) := by
  simp [command, h]

theorem command_pending {s : State} {p : Pending} {i : Instr} (eff : Pending → State → Result) (h : s.pend = some p)
    (hp : performable i p s = true) : command i eff s = eff p s := by
  simp [command, h, hp]

/-- Everything a command can do when it answers a next state: it was idle and issued, or it was pending, performable,
and performed. -/
theorem command_next {s t : State} {i : Instr} {eff : Pending → State → Result} (h : command i eff s = .next t) :
    (s.pend = none ∧ t = s.issue i) ∨
    ∃ p, s.pend = some p ∧ performable i p s = true ∧ eff p s = .next t := by
  unfold command at h
  split at h
  · exact .inl ⟨by assumption, (Host.Outcome.next.inj h).symm⟩
  · split at h
    · exact .inr ⟨_, by assumption, by assumption, h⟩
    · exact absurd h (by simp)

theorem performable_iff {i : Instr} {p : Pending} {s : State} :
    performable i p s = true ↔ issueCheck i p.b s = none ∧ wordsNeeded s.cfg i ≤ p.words.length := by
  simp [performable]

/-! ## The ends of a perform -/

@[simp] theorem answer_eq (v : U128) (s : State) : answer v s = .next (s.setRes v).complete := rfl

@[simp] theorem seedPhx_eq (n : Inst) (st : PhxState) (s : State) :
    seedPhx n st s = .next (s.setPhx n { seeded := true, st := st }).complete := rfl

@[simp] theorem seedLfc_some (n : Inst) (st : LfcState) (s : State) :
    seedLfc n (some st) s = .next (s.setLfc n { seeded := true, st := st }).complete := rfl

@[simp] theorem seedLfc_none (n : Inst) (s : State) : seedLfc n none s = .fault .warmupNoPredecessor := rfl

theorem seedLfc_next {n : Inst} {st : Option LfcState} {s t : State} (h : seedLfc n st s = .next t) :
    ∃ st', st = some st' ∧ t = (s.setLfc n { seeded := true, st := st' }).complete := by
  cases st with
  | none => exact absurd h (by simp)
  | some st' => exact ⟨st', rfl, by simpa using h.symm⟩

/-! ## exec -/

/-- While no command is pending, every command issues. -/
theorem exec_idle {s : State} (i : Instr) (h : s.pend = none) : exec i s = .next (s.issue i) := by
  cases i <;>
    simp only [exec, execNop, execSeedqFlush, execLfcSeed, execLfcSeedseq, execLfcNext, execLfcBack, execLfcDiscard,
      execLfcEq, execLfcMin, execLfcMax, execPhxSeed, execPhxSeedseq, execPhxNext, execPhxDiscard, execPhxEq,
      execPhxMin, execPhxMax, execPhxMulhilo, execU128Add, execU128Sub, execU128Shl, execU128Shr, execU128Mul,
      execU128Mod, execU128Le, execU128Ge, command_idle _ _ h]

end Machine
end Sys2Proof
end

