-- ==== Sys2Proof/Laws/Exec.lean ====
section
/-! SUPPORT. What `exec` can do, said once: an issue while no command is pending, and one of ten kinds of perform while
one is; and what each command's perform answers. Claims about commands cite these instead of unfolding the meanings. -/

namespace Sys2Proof.Machine

/-- The kinds of perform: `Performed i p s t` says how the command `i`, pending as `p`, takes `s` to `t`. -/
inductive Performed : Instr → Pending → State → State → Prop where
  | nop (p s) : Performed .nop p s s.complete
  | flush (p s) : Performed .seedqFlush p s (s.setSeedq []).complete
  | lfcSeed (p) {s : State} (n v) {st} (h : lfcConstruct s.cfg (lcgWords s.cfg p.seed) v = some st) :
      Performed (.lfcSeed n v) p s (s.setLfc n { seeded := true, st := st }).complete
  | lfcSeedseq (p) {s : State} (n v) {st} (h : lfcConstruct s.cfg p.words v = some st) :
      Performed (.lfcSeedseq n v) p s (s.setLfc n { seeded := true, st := st }).complete
  | lfcNext (p) (s : State) (n) :
      Performed (.lfcNext n) p s
        ((s.stepLfc n (lfcFwd s.cfg (s.lfc.get n).st).2).setRes (zext128 (lfcFwd s.cfg (s.lfc.get n).st).1)).complete
  | lfcBack (p) {s : State} (n) {y st} (h : lfcBack s.cfg (s.lfc.get n).st = some (y, st)) :
      Performed (.lfcBack n) p s ((s.stepLfc n st).setRes (zext128 y)).complete
  | lfcDiscard (p) (s : State) (n) :
      Performed (.lfcDiscard n) p s (s.stepLfc n (lfcFwdN s.cfg p.count (s.lfc.get n).st)).complete
  | phxSeed (p) (s : State) (n) :
      Performed (.phxSeed n) p s (s.setPhx n { seeded := true, st := phxSeedInt s.cfg p.seed }).complete
  | phxSeedseq (p) (s : State) (n) :
      Performed (.phxSeedseq n) p s (s.setPhx n { seeded := true, st := phxSeedSeq s.cfg p.words }).complete
  | phxNext (p) (s : State) (n v) :
      Performed (.phxNext n v) p s
        ((s.stepPhx n (phxNext s.cfg v (s.phx.get n).st).2).setRes
          (zext128 (phxNext s.cfg v (s.phx.get n).st).1)).complete
  | phxDiscard (p) (s : State) (n v) :
      Performed (.phxDiscard n v) p s (s.stepPhx n (phxNextN s.cfg v p.count (s.phx.get n).st)).complete
  | result (p s r) {i} (hr : leavesRes i = false) (hi : i.inst? = none) : Performed i p s (s.setRes r).complete

/-- Everything a command can do while one is pending, if it answers a next state. -/
theorem exec_performed {i : Instr} {s t : State} {p : Pending} (hp : s.pend = some p) (h : exec i s = .next t) :
    performable i p s = true ∧ Performed i p s t := by
  have key : ∀ eff, command i eff s = .next t → performable i p s = true ∧ eff p s = .next t := by
    intro eff hc
    rcases command_next hc with ⟨h0, _⟩ | ⟨p', h1, h2, h3⟩
    · rw [hp] at h0; cases h0
    · rw [hp] at h1; cases h1; exact ⟨h2, h3⟩
  cases i <;> simp only [exec] at h <;> obtain ⟨hperf, he⟩ := key _ h <;> refine ⟨hperf, ?_⟩
  case nop => cases he; exact .nop p s
  case seedqFlush => cases he; exact .flush p s
  case lfcSeed n v => obtain ⟨st, h1, rfl⟩ := seedLfc_next he; exact .lfcSeed p n v h1
  case lfcSeedseq n v => obtain ⟨st, h1, rfl⟩ := seedLfc_next he; exact .lfcSeedseq p n v h1
  case lfcNext n => cases he; exact .lfcNext p s n
  case lfcBack n =>
    split at he
    · cases he; exact .lfcBack p n (by assumption)
    · cases he
  case lfcDiscard n => cases he; exact .lfcDiscard p s n
  case phxSeed n => cases he; exact .phxSeed p s n
  case phxSeedseq n => cases he; exact .phxSeedseq p s n
  case phxNext n v => cases he; exact .phxNext p s n v
  case phxDiscard n v => cases he; exact .phxDiscard p s n v
  all_goals (cases he; exact .result p s _ rfl rfl)

/-- Everything `exec` can do, if it answers a next state. -/
theorem exec_next {i : Instr} {s t : State} (h : exec i s = .next t) :
    (s.pend = none ∧ t = s.issue i) ∨
    ∃ p, s.pend = some p ∧ performable i p s = true ∧ Performed i p s t := by
  cases hp : s.pend with
  | none => rw [exec_idle i hp] at h; exact .inl ⟨rfl, (Host.Outcome.next.inj h).symm⟩
  | some p => exact .inr ⟨p, rfl, exec_performed hp h⟩

/-! ## The perform of each command -/

/-- A command that no check of R109 stops and that takes no seed words can perform. -/
theorem performable_free {i : Instr} {p : Pending} {s : State} (hc : issueCheck i p.b s = none)
    (hw : wordsNeeded s.cfg i = 0) : performable i p s = true := by
  simp [performable_iff, hc, hw]

section Perform

variable {s : State} {p : Pending} {n : Inst} {v : Variant}

theorem exec_nop_pending (hp : s.pend = some p) (h : performable .nop p s = true) :
    exec .nop s = .next s.complete := by
  simp only [exec, execNop, command_pending _ hp h]

theorem exec_seedqFlush_pending (hp : s.pend = some p) (h : performable .seedqFlush p s = true) :
    exec .seedqFlush s = .next (s.setSeedq []).complete := by
  simp only [exec, execSeedqFlush, command_pending _ hp h]

theorem exec_lfcSeed_pending (hp : s.pend = some p) (h : performable (.lfcSeed n v) p s = true) :
    exec (.lfcSeed n v) s = seedLfc n (lfcConstruct s.cfg (lcgWords s.cfg p.seed) v) s := by
  simp only [exec, execLfcSeed, command_pending _ hp h]

theorem exec_lfcSeedseq_pending (hp : s.pend = some p) (h : performable (.lfcSeedseq n v) p s = true) :
    exec (.lfcSeedseq n v) s = seedLfc n (lfcConstruct s.cfg p.words v) s := by
  simp only [exec, execLfcSeedseq, command_pending _ hp h]

theorem exec_lfcNext_pending (hp : s.pend = some p) (h : performable (.lfcNext n) p s = true) :
    exec (.lfcNext n) s = 
      .next ((s.stepLfc n (lfcFwd s.cfg (s.lfc.get n).st).2).setRes
        (zext128 (lfcFwd s.cfg (s.lfc.get n).st).1)).complete := by
  simp only [exec, execLfcNext, command_pending _ hp h, answer_eq]

theorem exec_lfcBack_pending {y : Nat} {st : LfcState} (hp : s.pend = some p)
    (h : performable (.lfcBack n) p s = true) (hb : lfcBack s.cfg (s.lfc.get n).st = some (y, st)) :
    exec (.lfcBack n) s = .next ((s.stepLfc n st).setRes (zext128 y)).complete := by
  rw [show exec (.lfcBack n) s = execLfcBack n s from rfl, execLfcBack, command_pending _ hp h, hb]
  rfl

theorem exec_lfcDiscard_pending (hp : s.pend = some p) (h : performable (.lfcDiscard n) p s = true) :
    exec (.lfcDiscard n) s = .next (s.stepLfc n (lfcFwdN s.cfg p.count (s.lfc.get n).st)).complete := by
  simp only [exec, execLfcDiscard, command_pending _ hp h]

theorem exec_lfcEq_pending (hp : s.pend = some p) (h : performable .lfcEq p s = true) :
    exec .lfcEq s = .next (s.setRes (boolRes (decide (s.lfc.i0.st = s.lfc.i1.st)))).complete := by
  simp only [exec, execLfcEq, command_pending _ hp h, answer_eq]

theorem exec_lfcMin_pending (hp : s.pend = some p) (h : performable .lfcMin p s = true) :
    exec .lfcMin s = .next (s.setRes 0).complete := by
  simp only [exec, execLfcMin, command_pending _ hp h, answer_eq]

theorem exec_lfcMax_pending (hp : s.pend = some p) (h : performable .lfcMax p s = true) :
    exec .lfcMax s = .next (s.setRes (zext128 (2 ^ s.cfg.wL - 1))).complete := by
  simp only [exec, execLfcMax, command_pending _ hp h, answer_eq]

theorem exec_phxSeed_pending (hp : s.pend = some p) (h : performable (.phxSeed n) p s = true) :
    exec (.phxSeed n) s = .next (s.setPhx n { seeded := true, st := phxSeedInt s.cfg p.seed }).complete := by
  simp only [exec, execPhxSeed, command_pending _ hp h, seedPhx_eq]

theorem exec_phxSeedseq_pending (hp : s.pend = some p) (h : performable (.phxSeedseq n) p s = true) :
    exec (.phxSeedseq n) s = .next (s.setPhx n { seeded := true, st := phxSeedSeq s.cfg p.words }).complete := by
  simp only [exec, execPhxSeedseq, command_pending _ hp h, seedPhx_eq]

theorem exec_phxNext_pending (hp : s.pend = some p) (h : performable (.phxNext n v) p s = true) :
    exec (.phxNext n v) s = 
      .next ((s.stepPhx n (phxNext s.cfg v (s.phx.get n).st).2).setRes
        (zext128 (phxNext s.cfg v (s.phx.get n).st).1)).complete := by
  simp only [exec, execPhxNext, command_pending _ hp h, answer_eq]

theorem exec_phxDiscard_pending (hp : s.pend = some p) (h : performable (.phxDiscard n v) p s = true) :
    exec (.phxDiscard n v) s = .next (s.stepPhx n (phxNextN s.cfg v p.count (s.phx.get n).st)).complete := by
  simp only [exec, execPhxDiscard, command_pending _ hp h]

theorem exec_phxEq_pending (hp : s.pend = some p) (h : performable .phxEq p s = true) :
    exec .phxEq s = .next (s.setRes (boolRes (decide (s.phx.i0.st = s.phx.i1.st)))).complete := by
  simp only [exec, execPhxEq, command_pending _ hp h, answer_eq]

theorem exec_phxMin_pending (hp : s.pend = some p) (h : performable .phxMin p s = true) :
    exec .phxMin s = .next (s.setRes 0).complete := by
  simp only [exec, execPhxMin, command_pending _ hp h, answer_eq]

theorem exec_phxMax_pending (hp : s.pend = some p) (h : performable .phxMax p s = true) :
    exec .phxMax s = .next (s.setRes (zext128 (2 ^ s.cfg.wP - 1))).complete := by
  simp only [exec, execPhxMax, command_pending _ hp h, answer_eq]

theorem exec_phxMulhilo_pending (hp : s.pend = some p) (h : performable .phxMulhilo p s = true) :
    exec .phxMulhilo s = 
      .next (s.setRes (U128.ofHalves (BitVec.ofNat 64 (mulhilo s.cfg (p.mulA s.cfg) (p.mulB s.cfg)).1)
        (BitVec.ofNat 64 (mulhilo s.cfg (p.mulA s.cfg) (p.mulB s.cfg)).2))).complete := by
  simp only [exec, execPhxMulhilo, command_pending _ hp h, answer_eq]

theorem exec_u128Add_pending (hp : s.pend = some p) (h : performable .u128Add p s = true) :
    exec .u128Add s = .next (s.setRes (p.a + p.b)).complete := by
  simp only [exec, execU128Add, command_pending _ hp h, answer_eq]

theorem exec_u128Sub_pending (hp : s.pend = some p) (h : performable .u128Sub p s = true) :
    exec .u128Sub s = .next (s.setRes (p.a - p.b)).complete := by
  simp only [exec, execU128Sub, command_pending _ hp h, answer_eq]

theorem exec_u128Shl_pending (hp : s.pend = some p) (h : performable .u128Shl p s = true) :
    exec .u128Shl s = .next (s.setRes (xuShl p.a p.b)).complete := by
  simp only [exec, execU128Shl, command_pending _ hp h, answer_eq]

theorem exec_u128Shr_pending (hp : s.pend = some p) (h : performable .u128Shr p s = true) :
    exec .u128Shr s = .next (s.setRes (xuShr p.a p.b)).complete := by
  simp only [exec, execU128Shr, command_pending _ hp h, answer_eq]

theorem exec_u128Mul_pending (hp : s.pend = some p) (h : performable .u128Mul p s = true) :
    exec .u128Mul s = .next (s.setRes (p.a * p.b)).complete := by
  simp only [exec, execU128Mul, command_pending _ hp h, answer_eq]

theorem exec_u128Mod_pending (hp : s.pend = some p) (h : performable .u128Mod p s = true) :
    exec .u128Mod s = .next (s.setRes (p.a % p.b)).complete := by
  simp only [exec, execU128Mod, command_pending _ hp h, answer_eq]

theorem exec_u128Le_pending (hp : s.pend = some p) (h : performable .u128Le p s = true) :
    exec .u128Le s = .next (s.setRes (boolRes (decide (p.a ≤ p.b)))).complete := by
  simp only [exec, execU128Le, command_pending _ hp h, answer_eq]

theorem exec_u128Ge_pending (hp : s.pend = some p) (h : performable .u128Ge p s = true) :
    exec .u128Ge s = .next (s.setRes (boolRes (decide (p.b ≤ p.a)))).complete := by
  simp only [exec, execU128Ge, command_pending _ hp h, answer_eq]

end Perform

/-- The RES that a command leaves, from what its perform answers. -/
theorem resultOf_eq {i : Instr} {s : State} {a b r : U128} {p : Pending}
    (hpd : p = { cmd := i, a := a, b := b, words := [] })
    (h : exec i (s.setPend (some p)) = .next (((s.setPend (some p)).setRes r).complete)) :
    resultOf i s a b = some r := by
  subst hpd
  rw [resultOf, show ({ s with pend := some { cmd := i, a := a, b := b, words := [] } } : State) =
    s.setPend (some { cmd := i, a := a, b := b, words := [] }) from rfl, h]
  simp [nextState?]

end Sys2Proof.Machine
end

