-- ==== Sys2Proof/Laws/Host.lean ====
section
/-! SUPPORT. The host's variables: a write keeps the canonical form, and what a variable reads as after a write. -/

namespace Sys2Proof.Machine

theorem varsOk_cons {k v : Nat} {rest : List (Nat × Nat)} :
    varsOk ((k, v) :: rest) = true ↔ v ≠ 0 ∧ (∀ p ∈ rest.head?, k < p.1) ∧ varsOk rest = true := by
  cases rest with
  | nil => simp [varsOk]
  | cons p rest => obtain ⟨k', v'⟩ := p; simp [varsOk, and_assoc]

theorem varSet_head {l : List (Nat × Nat)} {b k : Nat} (v : Nat) (hk : b < k) (h : ∀ p ∈ l.head?, b < p.1)
    (hl : varsOk l = true) : ∀ p ∈ (varSet l k v).head?, b < p.1 := by
  cases l with
  | nil => unfold varSet; split <;> simp [hk]
  | cons p rest =>
    obtain ⟨k', v'⟩ := p
    simp only [List.head?_cons, Option.mem_def, Option.some.injEq, forall_eq'] at h
    rw [varsOk_cons] at hl
    unfold varSet
    split
    · split <;> simp [h, hk]
    · split
      · split
        · intro p hp
          have := hl.2.1 p hp
          omega
        · simp [hk]
      · simp [h]

theorem varSet_varsOk {l : List (Nat × Nat)} (k v : Nat) (hl : varsOk l = true) : varsOk (varSet l k v) = true := by
  induction l with
  | nil => unfold varSet; split <;> simp [varsOk, *]
  | cons p rest ih =>
    obtain ⟨k', v'⟩ := p
    have hl' := varsOk_cons.mp hl
    unfold varSet
    split
    · split
      · exact hl
      · exact varsOk_cons.mpr ⟨by assumption, by simpa, hl⟩
    · split
      · split
        · exact hl'.2.2
        · subst k
          exact varsOk_cons.mpr ⟨by assumption, hl'.2⟩
      · exact varsOk_cons.mpr ⟨hl'.1, varSet_head _ (by omega) hl'.2.1 hl'.2.2, ih hl'.2.2⟩

theorem varGet_eq_zero {l : List (Nat × Nat)} {k : Nat} (hl : varsOk l = true) (h : ∀ p ∈ l.head?, k < p.1) :
    varGet l k = 0 := by
  induction l with
  | nil => rfl
  | cons p rest ih =>
    obtain ⟨k', v'⟩ := p
    simp only [List.head?_cons, Option.mem_def, Option.some.injEq, forall_eq'] at h
    have hl' := varsOk_cons.mp hl
    rw [varGet, if_neg (by omega)]
    exact ih hl'.2.2 fun p hp => by have := hl'.2.1 p hp; omega

/-- Read after write. -/
theorem varGet_varSet_same {l : List (Nat × Nat)} (k v : Nat) (hl : varsOk l = true) :
    varGet (varSet l k v) k = v := by
  induction l with
  | nil => unfold varSet; split <;> simp [varGet, *]
  | cons p rest ih =>
    obtain ⟨k', v'⟩ := p
    have hl' := varsOk_cons.mp hl
    unfold varSet
    split
    · split
      · subst v; exact varGet_eq_zero hl (by simpa)
      · simp [varGet]
    · split
      · split
        · subst k v; exact varGet_eq_zero hl'.2.2 hl'.2.1
        · simp [varGet]
      · rw [varGet, if_neg (by omega)]
        exact ih hl'.2.2

/-- A write leaves every other variable alone. -/
theorem varGet_varSet_other {l : List (Nat × Nat)} {k m : Nat} (v : Nat) (hm : m ≠ k) :
    varGet (varSet l k v) m = varGet l m := by
  induction l with
  | nil =>
    unfold varSet
    split
    · rfl
    · simp [varGet, Ne.symm hm]
  | cons p rest ih =>
    obtain ⟨k', v'⟩ := p
    unfold varSet
    split
    · split
      · rfl
      · simp [varGet, Ne.symm hm]
    · split
      · subst k
        split
        · simp [varGet, Ne.symm hm]
        · simp [varGet, Ne.symm hm]
      · simp [varGet, ih]

end Sys2Proof.Machine
end

