-- ==== Sys2Proof/Laws/PerInstr.lean ====
section
/-! SUPPORT. Statements about every command as syntax, one lemma per constructor. -/

namespace Sys2Proof.Laws.Fields

/-- R101, R102, R103: the command's word has RSV = 0, and sets INST or VAR only if the command names an instance or a
variant. -/
def Statement (i : Instr) : Prop :=
  (encode i).toNat < 2 ^ 10 ∧ ((encode i).getLsbD 8 = true → i.inst?.isSome = true) ∧
    ((encode i).getLsbD 9 = true → i.var?.isSome = true)

theorem nop : Statement .nop := by unfold Statement; decide

theorem seedqFlush : Statement .seedqFlush := by unfold Statement; decide

theorem lfcSeed (n : Inst) (v : Variant) : Statement (.lfcSeed n v) := by
  unfold Statement; cases n <;> cases v <;> decide

theorem lfcSeedseq (n : Inst) (v : Variant) : Statement (.lfcSeedseq n v) := by
  unfold Statement; cases n <;> cases v <;> decide

theorem lfcNext (n : Inst) : Statement (.lfcNext n) := by unfold Statement; cases n <;> decide

theorem lfcBack (n : Inst) : Statement (.lfcBack n) := by unfold Statement; cases n <;> decide

theorem lfcDiscard (n : Inst) : Statement (.lfcDiscard n) := by unfold Statement; cases n <;> decide

theorem lfcEq : Statement .lfcEq := by unfold Statement; decide

theorem lfcMin : Statement .lfcMin := by unfold Statement; decide

theorem lfcMax : Statement .lfcMax := by unfold Statement; decide

theorem phxSeed (n : Inst) : Statement (.phxSeed n) := by unfold Statement; cases n <;> decide

theorem phxSeedseq (n : Inst) : Statement (.phxSeedseq n) := by unfold Statement; cases n <;> decide

theorem phxNext (n : Inst) (v : Variant) : Statement (.phxNext n v) := by
  unfold Statement; cases n <;> cases v <;> decide

theorem phxDiscard (n : Inst) (v : Variant) : Statement (.phxDiscard n v) := by
  unfold Statement; cases n <;> cases v <;> decide

theorem phxEq : Statement .phxEq := by unfold Statement; decide

theorem phxMin : Statement .phxMin := by unfold Statement; decide

theorem phxMax : Statement .phxMax := by unfold Statement; decide

theorem phxMulhilo : Statement .phxMulhilo := by unfold Statement; decide

theorem u128Add : Statement .u128Add := by unfold Statement; decide

theorem u128Sub : Statement .u128Sub := by unfold Statement; decide

theorem u128Shl : Statement .u128Shl := by unfold Statement; decide

theorem u128Shr : Statement .u128Shr := by unfold Statement; decide

theorem u128Mul : Statement .u128Mul := by unfold Statement; decide

theorem u128Mod : Statement .u128Mod := by unfold Statement; decide

theorem u128Le : Statement .u128Le := by unfold Statement; decide

theorem u128Ge : Statement .u128Ge := by unfold Statement; decide

end Sys2Proof.Laws.Fields
end

