-- ==== Sys2Proof/Laws/Safety.lean ====
section
/-! SUPPORT. The invariant's parts: what they depend on, and that recording an error keeps them. -/

namespace Sys2Proof.Machine.State

/-- The pending command's conditions depend on nothing but the latch, the configuration and the instances. -/
theorem pendingOk_congr {s t : State} (hp : t.pend = s.pend) (hc : t.cfg = s.cfg) (hl : t.lfc = s.lfc)
    (hx : t.phx = s.phx) : t.pendingOk = s.pendingOk := by
  unfold pendingOk
  rw [hp]
  cases s.pend with
  | none => rfl
  | some p =>
    have : issueCheck p.cmd p.b t = issueCheck p.cmd p.b s := by cases p.cmd <;> simp only [issueCheck, hc, hl, hx]
    simp only [hc, performable, this]

theorem pendingOk_of_none {s : State} (h : s.pend = none) : s.pendingOk = true := by simp [pendingOk, h]

theorem code_range (e : ErrCode) : 1 ≤ e.code.toNat ∧ e.code.toNat ≤ 8 := by cases e <;> decide

theorem raise_errorRecordOk {s : State} (e : ErrCode) (h : s.errorRecordOk = true) :
    (s.raise e).errorRecordOk = true := by
  have := code_range e
  unfold raise
  cases he : s.err <;> simp [errorRecordOk, he, this] at h ⊢
  exact h

end Sys2Proof.Machine.State
end

