-- ==== Sys2Proof/Tests/Slice0.lean ====
section
/-! SUPPORT. Tests: ill-formed terms refused, words written out from the encoding, one step per command with results
from spec/95_test_vectors.md (V) and the rules (R), and a witness for the hypotheses of every obligation. -/

namespace Sys2Proof.Tests

open Sys2Proof Sys2Proof.Machine

/-! ## Well-formedness: a term that breaks each check is refused -/

/-- `test16` (w, s, r) = (16, 2, 4) with `philox4x32`. -/
def c16 : Config := Config.test16Philox32

/-- V46's configuration. -/
def tiny : Config := { c16 with wP := 8, nP := 2, rP := 3, constP := [0xD3, 0x9B] }

theorem test_wf_legal : [Config.ranlux24Philox32, Config.ranlux48Philox64, c16, tiny].all Config.wf = true := by decide

theorem test_wf_lfcWidth : { c16 with wL := 0 }.okLfcWidth = false ∧ { c16 with wL := 65 }.wf = false := by decide

theorem test_wf_lags : { c16 with sL := 0 }.okLags = false ∧ { c16 with sL := 4 }.wf = false := by decide

theorem test_wf_phxWidth : { tiny with wP := 0 }.okPhxWidth = false ∧ { tiny with wP := 65 }.wf = false := by decide

theorem test_wf_phxCount : { c16 with nP := 3 }.okPhxCount = false ∧ { c16 with nP := 3 }.wf = false := by decide

theorem test_wf_phxRounds : { c16 with rP := 0 }.okPhxRounds = false ∧ { c16 with rP := 0 }.wf = false := by decide

theorem test_wf_consts :
    { tiny with constP := [0xD3] }.okConsts = false ∧ { tiny with constP := [0xD3, 0x100] }.wf = false := by
  decide

theorem test_wf_base : { c16 with base := 128 }.okBase = false ∧ { c16 with base := 128 }.wf = false := by decide

/-- R104's grounds, by field: RSV, OP = 0, a reserved OP, INST, VAR. -/
theorem test_wf_words :
    [0x401, 0x000, 0x018, 0x115, 0x212].all (fun w => !(fieldsOf (BitVec.ofNat 64 w)).legal) = true ∧
    [0x001, 0x310, 0x112, 0x120, 0x322, 0x037].all (fun w => (fieldsOf (BitVec.ofNat 64 w)).legal) = true := by
  decide

/-- R112: a qualifier missing, and one too many. -/
theorem test_wf_forms :
    CmdForm.wf { mnemonic := .phxNext, variant := none, inst := some .i0 } = false ∧
    CmdForm.wf { mnemonic := .phxNext, variant := some .corrected, inst := none } = false ∧
    CmdForm.wf { mnemonic := .lfcNext, variant := some .corrected, inst := some .i0 } = false ∧
    CmdForm.wf { mnemonic := .nop, variant := none, inst := some .i0 } = false ∧
    CmdForm.wf { mnemonic := .phxNext, variant := some .literal, inst := some .i1 } = true := by
  decide

theorem test_forms_refused_by_name :
    assembleCmd { mnemonic := .lfcSeed, variant := none, inst := some .i0 } = .error (.missingVariant .lfcSeed) ∧
    assembleCmd { mnemonic := .lfcBack, variant := some .literal, inst := some .i0 } = .error (.extraVariant .lfcBack) ∧
    assembleCmd { mnemonic := .phxSeed, variant := none, inst := none } = .error (.missingInst .phxSeed) ∧
    assembleCmd { mnemonic := .u128Add, variant := none, inst := some .i1 } = .error (.extraInst .u128Add) :=
  ⟨rfl, rfl, rfl, rfl⟩

/-! ## Decoding: words written out from R101 to R103 and V80, RSV_VAR_INST_OP -/

theorem test_decode_control :
    decodeTableWord 64 0b0_0_00000001 = some .nop ∧ decodeTableWord 64 0b0_0_00000010 = some .seedqFlush := by decide

theorem test_decode_lfc_seed :
    decodeTableWord 64 0b0_0_00010000 = some (.lfcSeed .i0 .literal) ∧
    decodeTableWord 64 0b0_1_00010000 = some (.lfcSeed .i1 .literal) ∧
    decodeTableWord 64 0b1_0_00010000 = some (.lfcSeed .i0 .corrected) ∧
    decodeTableWord 64 0b1_1_00010000 = some (.lfcSeed .i1 .corrected) ∧
    decodeTableWord 64 0x011 = some (.lfcSeedseq .i0 .literal) ∧
    decodeTableWord 64 0x111 = some (.lfcSeedseq .i1 .literal) ∧
    decodeTableWord 64 0x211 = some (.lfcSeedseq .i0 .corrected) ∧
    decodeTableWord 64 0x311 = some (.lfcSeedseq .i1 .corrected) := by
  decide

theorem test_decode_lfc :
    [0x012, 0x112, 0x013, 0x113, 0x014, 0x114, 0x015, 0x016, 0x017].map (decodeTableWord 64) =
      [some (.lfcNext .i0), some (.lfcNext .i1), some (.lfcBack .i0), some (.lfcBack .i1), some (.lfcDiscard .i0),
        some (.lfcDiscard .i1), some .lfcEq, some .lfcMin, some .lfcMax] := by
  decide

theorem test_decode_phx :
    [0x020, 0x120, 0x021, 0x121, 0x022, 0x122, 0x222, 0x322, 0x024, 0x025, 0x026, 0x027].map (decodeTableWord 64) =
      [some (.phxSeed .i0), some (.phxSeed .i1), some (.phxSeedseq .i0), some (.phxSeedseq .i1),
        some (.phxNext .i0 .literal), some (.phxNext .i1 .literal), some (.phxNext .i0 .corrected),
        some (.phxNext .i1 .corrected), some .phxEq, some .phxMin, some .phxMax, some .phxMulhilo] := by
  decide

theorem test_decode_phx_discard :
    decodeTableWord 64 0b0_0_00100011 = some (.phxDiscard .i0 .literal) ∧
    decodeTableWord 64 0b0_1_00100011 = some (.phxDiscard .i1 .literal) ∧
    decodeTableWord 64 0b1_0_00100011 = some (.phxDiscard .i0 .corrected) ∧
    decodeTableWord 64 0b1_1_00100011 = some (.phxDiscard .i1 .corrected) := by
  decide

theorem test_decode_xu :
    [0x030, 0x031, 0x032, 0x033, 0x034, 0x035, 0x036, 0x037].map (decodeTableWord 64) =
      [some .u128Add, some .u128Sub, some .u128Shl, some .u128Shr, some .u128Mul, some .u128Mod, some .u128Le,
        some .u128Ge] := by
  decide

/-- V81. -/
theorem test_decode_illegal :
    [0x000, 0x003, 0x018, 0x028, 0x038, 0x0FF, 0x212, 0x220, 0x115, 0x134, 0x401, 0x8000000000000022].map
      (decodeTableWord 64) = List.replicate 12 none := by
  decide

/-! ## The small states the tests step from -/

/-- `test16` right after reset. -/
def idle : State := State.resetOf c16

/-- S0c (V24) in LFC[0], S0 (V23) in LFC[1], and both PHX instances seeded with 5 (V48). -/
def seeded : State :=
  { idle with
    lfc :=
      { i0 := { seeded := true, st := { x := [63025, 2533, 52484, 29490], i := 0, carry := true } }
        i1 := { seeded := true, st := { x := [63026, 2533, 52484, 29490], i := 0, carry := false } } }
    phx :=
      { i0 := { seeded := true, st := { X := [0, 0, 0, 0], K := [5, 0], Y := [0, 0, 0, 0], j := 3 } }
        i1 := { seeded := true, st := { X := [0, 0, 0, 0], K := [5, 0], Y := [0, 0, 0, 0], j := 3 } } } }

/-- A latch for `i` with operands `a` and `b`. -/
def latch (i : Instr) (a b : Nat) (words : List SeedWord) : Pending :=
  { cmd := i, a := BitVec.ofNat 128 a, b := BitVec.ofNat 128 b, words := words }

/-- `s` with `i` pending, the operands given. -/
def busy (s : State) (i : Instr) (a b : Nat) : State := s.setPend (some (latch i a b []))

/-- LFC[0] holding `st`. -/
def withLfc (s : State) (x : List Nat) (i : Nat) (carry : Bool) : State :=
  s.setLfc .i0 { seeded := true, st := { x := x, i := i, carry := carry } }

/-- The perform of `i` from `s` with the operands given. -/
def perform (s : State) (i : Instr) (a b : Nat) : Option State := nextState? (exec i (busy s i a b))

/-- What a test looks at: RES as a number. -/
def resNat (s : State) : Nat := s.res.toNat

/-! ## Control -/

theorem test_nop : perform seeded .nop 1 2 = some seeded := by decide

theorem test_seedqFlush :
    perform (seeded.setSeedq [1, 2, 3]) .seedqFlush 0 0 = some seeded ∧
    nextState? (exec .seedqFlush (seeded.setSeedq [1])) ≠ some seeded := by
  decide

/-! ## LFC -/

/-- V37: seed 0 literal gives S0; the upper half of A is ignored. -/
theorem test_lfcSeed_literal :
    (perform idle (.lfcSeed .i1 .literal) (2 ^ 64) 0).map (fun t => (t.lfc.i1, t.lfc.i0.seeded)) =
      some (seeded.lfc.i1, false) := by
  decide +kernel

/-- V24: seed 0 corrected gives S0c. -/
theorem test_lfcSeed_corrected :
    (perform idle (.lfcSeed .i0 .corrected) 0 0).map (fun t => t.lfc.i0) = some seeded.lfc.i0 := by
  decide +kernel

/-- V38: the words 1, 2, 3, 0. -/
theorem test_lfcSeedseq :
    (nextState? (exec (.lfcSeedseq .i0 .literal)
        (idle.setPend (some (latch (.lfcSeedseq .i0 .literal) 0 0 [1, 2, 3, 0]))))).map
        (fun t => t.lfc.i0.st) = some { x := [1, 2, 3, 0], i := 0, carry := true } ∧
    (nextState? (exec (.lfcSeedseq .i0 .corrected)
        (idle.setPend (some (latch (.lfcSeedseq .i0 .corrected) 0 0 [1, 2, 3, 0]))))).map
        (fun t => t.lfc.i0.st) = some { x := [2, 2, 3, 0], i := 0, carry := false } := by
  decide +kernel

/-- P6: the issue takes the four oldest words and leaves the fifth. -/
theorem test_lfcSeedseq_issue :
    (nextState? (exec (.lfcSeedseq .i0 .literal) (idle.setSeedq [1, 2, 3, 0, 9]))).map
        (fun t => (t.pend.map (fun p => p.words), t.seedq)) = some (some [1, 2, 3, 0], [9]) := by
  decide

/-- V23, V25: from S0c the output is 54994, and F1 follows. -/
theorem test_lfcNext :
    (perform seeded (.lfcNext .i0) 0 0).map (fun t => (resNat t, t.lfc.i0.st)) =
      some (54994, { x := [54994, 2533, 52484, 29490], i := 1, carry := true }) := by
  decide

/-- V26, its first row: temp = 2^16. -/
theorem test_lfcNext_carry :
    (perform (withLfc seeded [65535, 10, 20, 30] 0 true) (.lfcNext .i0) 0 0).map (fun t => (resNat t, t.lfc.i0.st)) =
      some (20, { x := [20, 10, 20, 30], i := 1, carry := true }) := by
  decide

/-- V31, its third row: F1 goes back to S0c. -/
theorem test_lfcBack :
    (perform (withLfc seeded [54994, 2533, 52484, 29490] 1 true) (.lfcBack .i0) 0 0).map
        (fun t => (resNat t, t.lfc.i0.st)) = some (54994, seeded.lfc.i0.st) := by
  decide

/-- V33: S0 has no predecessor; the issue records E_NOPRED and the state stays. -/
theorem test_lfcBack_noPred :
    nextState? (exec (.lfcBack .i1) seeded) = some { seeded with err := true, ecode := 0x07 } := by
  decide

/-- V35: twelve steps return S0c to itself, and RES stays. -/
theorem test_lfcDiscard :
    (perform (seeded.setRes 77) (.lfcDiscard .i0) 12 0).map (fun t => (resNat t, t.lfc.i0.st)) =
      some (77, seeded.lfc.i0.st) := by
  decide

/-- V36: S0 and S0c differ. -/
theorem test_lfcEq :
    (perform seeded .lfcEq 0 0).map resNat = some 0 ∧
    (perform (seeded.setLfc .i1 seeded.lfc.i0) .lfcEq 0 0).map resNat = some 1 := by
  decide

theorem test_lfcMin : (perform (idle.setRes 9) .lfcMin 0 0).map resNat = some 0 := by decide

/-- V39. -/
theorem test_lfcMax :
    (perform idle .lfcMax 0 0).map resNat = some 0xFFFF ∧
    (perform (State.resetOf { c16 with wL := 64 }) .lfcMax 0 0).map resNat = some 0xFFFFFFFFFFFFFFFF ∧
    (perform (State.resetOf { c16 with wL := 1 }) .lfcMax 0 0).map resNat = some 1 := by
  decide

/-! ## PHX -/

/-- V46: the seed 0x1AB masked to 8 bits; R210: the cursor ends at n − 1. -/
theorem test_phxSeed :
    (perform (State.resetOf tiny) (.phxSeed .i1) 0x1AB 0).map (fun t => t.phx.i1) =
      some { seeded := true, st := { X := [0, 0], K := [0xAB], Y := [0, 0], j := 1 } } := by
  decide

/-- V47, philox4x64: two words a key word, the first least significant. -/
theorem test_phxSeedseq :
    (nextState? (exec (.phxSeedseq .i0)
        ((State.resetOf Config.ranlux48Philox64).setPend (some (latch (.phxSeedseq .i0) 0 0 [1, 2, 3, 4]))))).map
        (fun t => t.phx.i0.st.K) = some [0x200000001, 0x400000003] := by
  decide

/-- V47's key. -/
def keyV47 : List Nat := [0xA4093822, 0x299F31D0]

/-- After reset, with PHX[0] freshly seeded with the key `K`. -/
def withKey (c : Config) (K : List Nat) : State :=
  (State.resetOf c).setPhx .i0 { seeded := true, st := phxSeeded c K }

/-- V47, philox4x32: the first corrected output under that key, and the state after it (P6). -/
theorem test_phxNext_block :
    (perform (withKey c16 keyV47) (.phxNext .i0 .corrected) 0 0).map (fun t => (resNat t, t.phx.i0.st)) =
      some (0x0E847852,
        { X := [1, 0, 0, 0], K := keyV47, Y := [0x0E847852, 0xADDB136A, 0x59B5BA7A, 0x7062AC6B], j := 0 }) := by
  decide +kernel

/-- V43: the literal variant's first output for the default seed; R212: a cached word is returned as it is. -/
theorem test_phxNext_literal_cached :
    (perform (withKey c16 [20111115, 0]) (.phxNext .i0 .literal) 0 0).map resNat = some 0x4EEE1130 ∧
    (perform (seeded.setPhx .i0 { seeded := true, st := { X := [1, 0, 0, 0], K := [0, 0], Y := [7, 8, 9, 10], j := 1 } })
        (.phxNext .i0 .literal) 0 0).map (fun t => (resNat t, t.phx.i0.st.j)) = some (9, 2) := by
  decide +kernel

/-- V48: four corrected calls by DISCARD. -/
theorem test_phxDiscard :
    (perform seeded (.phxDiscard .i1 .corrected) 4 0).map (fun t => t.phx.i1.st) =
      some { X := [1, 0, 0, 0], K := [5, 0], Y := [0xC417681D, 0x11D85194, 0xFBD62C3B, 0xF739E278], j := 3 } := by
  decide +kernel

/-- V46: the state after six corrected calls. -/
theorem test_phxDiscard_tiny :
    (perform (withKey tiny [0xAB]) (.phxDiscard .i0 .corrected) 6 0).map (fun t => t.phx.i0.st) =
      some { X := [3, 0], K := [0xAB], Y := [166, 4], j := 1 } := by
  decide +kernel

/-- V48: seeded alike, and with 5 and 6. -/
theorem test_phxEq :
    (perform seeded .phxEq 0 0).map resNat = some 1 ∧
    (perform (seeded.setPhx .i1 { seeded := true, st := phxSeedInt c16 6 }) .phxEq 0 0).map resNat = some 0 := by
  decide

theorem test_phxMin : (perform (idle.setRes 9) .phxMin 0 0).map resNat = some 0 := by decide

theorem test_phxMax :
    (perform idle .phxMax 0 0).map resNat = some 0xFFFFFFFF ∧
    (perform (State.resetOf Config.ranlux48Philox64) .phxMax 0 0).map resNat = some 0xFFFFFFFFFFFFFFFF := by
  decide

/-- V44, rows 2 and 4: masking, and a 64-bit product. -/
theorem test_phxMulhilo :
    (perform idle .phxMulhilo 0x1FFFFFFFF 2).map (fun t => (t.resHi, t.resLo)) = some (1, 0xFFFFFFFE) ∧
    (perform (State.resetOf Config.ranlux48Philox64) .phxMulhilo 0xCA5A826395121157 0x243F6A8885A308D3).map
        (fun t => (t.resHi, t.resLo)) = some (0x1CA6DAD17B2C9EDB, 0x8BB71E77ABD402B5) := by
  decide +kernel

/-! ## XU (V70 to V75) -/

/-- V70's x. -/
def x128 : Nat := 0x0123456789ABCDEFFEDCBA9876543210

/-- V70's y. -/
def y128 : Nat := 0x11111111111111110123456789ABCDEF

theorem test_u128Add :
    (perform idle .u128Add x128 y128).map resNat = some 0x123456789ABCDF00FFFFFFFFFFFFFFFF ∧
    (perform idle .u128Add (2 ^ 128 - 1) 1).map resNat = some 0 := by
  decide

theorem test_u128Sub :
    (perform idle .u128Sub y128 x128).map resNat = some 0x0FEDCBA98765432102468ACF13579BDF ∧
    (perform idle .u128Sub 0 1).map resNat = some (2 ^ 128 - 1) := by
  decide

theorem test_u128Shl :
    (perform idle .u128Shl x128 65).map resNat = some 0xFDB97530ECA864200000000000000000 ∧
    (perform idle .u128Shl x128 (2 ^ 64)).map resNat = some 0 := by
  decide

theorem test_u128Shr :
    (perform idle .u128Shr x128 63).map resNat = some 0x2468ACF13579BDF ∧
    (perform idle .u128Shr x128 128).map resNat = some 0 := by
  decide

theorem test_u128Mul :
    (perform idle .u128Mul x128 0xFEDCBA98765432100123456789ABCDEF).map resNat =
      some 0xBCB448E0E2B4BD632236D88FE5618CF0 ∧
    (perform idle .u128Mul (2 ^ 64 + 1) (2 ^ 64 + 1)).map resNat = some (2 ^ 65 + 1) := by
  decide

theorem test_u128Mod :
    (perform idle .u128Mod x128 1000000007).map resNat = some 619465712 ∧
    (perform idle .u128Mod (2 ^ 128 - 1) (2 ^ 127 + 1)).map resNat = some (2 ^ 127 - 2) := by
  decide +kernel

/-- P3: B = 0 records E_MOD_ZERO at issue and leaves RES. -/
theorem test_u128Mod_zero :
    nextState? (exec .u128Mod (idle.setRes 5)) = some { idle.setRes 5 with err := true, ecode := 0x06 } := by
  decide

theorem test_u128Le :
    (perform idle .u128Le (2 ^ 64) (2 ^ 64 - 1)).map resNat = some 0 ∧
    (perform idle .u128Le x128 x128).map resNat = some 1 := by
  decide

theorem test_u128Ge :
    (perform idle .u128Ge (2 ^ 64) (2 ^ 64 - 1)).map resNat = some 1 ∧
    (perform idle .u128Ge 0 (2 ^ 128 - 1)).map resNat = some 0 := by
  decide

/-! ## The interface (V82) -/

/-- STATUS after a CMD write of `w` in `s`. -/
def statusAfter (s : State) (w : Word) : Option Nat := (nextState? (writeCmd s w)).map fun t => t.statusWord.toNat

theorem test_errors_at_issue :
    statusAfter idle 0x012 = some 0x302 ∧ statusAfter idle 0x013 = some 0x302 ∧ statusAfter idle 0x015 = some 0x302 ∧
    statusAfter idle 0x212 = some 0x102 ∧ statusAfter idle 0x035 = some 0x602 ∧ statusAfter idle 0x011 = some 0x402 ∧
    statusAfter seeded 0x113 = some 0x702 ∧ statusAfter (busy idle .nop 0 0) 0x001 = some 0x203 := by
  decide

theorem test_error_record :
    statusAfter { idle with err := true, ecode := 0x01 } 0x000 = some 0x106 ∧
    statusAfter { idle with err := true, ecode := 0x01 } 0x035 = some 0x106 ∧
    (writeStatus { idle with err := true, eovf := true, ecode := 0x01 } 2).statusWord = 0 ∧
    (writeStatus { idle with err := true, eovf := true, ecode := 0x01 } 1).statusWord = 0x106 := by
  decide

theorem test_bus_errors :
    (busRead idle 0x000 8).2.statusWord = 0x802 ∧ (busRead idle 0x008 4) = ([0, 0, 0, 0], idle.busError) ∧
    nextState? (busWrite idle 0x058 (leBytes 8 1)) = some (idle.busError) ∧
    nextState? (busWrite idle 0x00C (leBytes 8 1)) = some (idle.busError) ∧
    nextState? (busWrite idle 0x030 (leBytes 8 1)) = some (idle.busError) := by
  decide

/-- The host is about to read CMD while the record holds E_ILLEGAL. -/
def badAccess : State :=
  { idle with
    err := true, ecode := 0x01
    host := { prog := [.memRead 0x000 8 (.var 0), wrOp 0 .status (.lit 2)], pc := 0, vars := [], stalls := false, busFault := false } }

/-- A bus error while another error is recorded, and after a clear, still fails R336's premise. -/
theorem test_host_fault :
    badAccess.noBusError = true ∧
    (nextState? (step badAccess)).map (fun t => (t.noBusError, t.statusWord)) = some (false, 0x106) ∧
    (nextState? (Host.Core.run core 2 badAccess)).map (fun t => (t.noBusError, t.statusWord)) = some (false, 0) := by
  decide

/-- The fifth push at SEEDQ_DEPTH = 4 is dropped. -/
theorem test_push_overflow :
    ((idle.setSeedq [1, 2, 3]).pushSeed 0).seedq = [1, 2, 3, 0] ∧
    (idle.setSeedq [1, 2, 3, 0]).pushSeed 5 = { idle.setSeedq [1, 2, 3, 0] with err := true, ecode := 0x05 } := by
  decide

/-! ## Steps -/

/-- A word placed by `withFetchWord` right after reset: the next step performs it, or makes its error. -/
theorem test_fetch_runs :
    (nextState? (step (State.reset.withFetchWord 64 0x017))).map resNat = some 0xFFFFFF ∧
    (nextState? (step (State.reset.withFetchWord 64 0x112))).map (fun t => t.statusWord) = some 0x302 := by
  decide

/-- The host is about to write NOP to CMD twice. -/
def twoNops (turns : List Turn) : State :=
  { idle with turns := turns, host := { prog := List.replicate 2 (wrOp 0 .cmd (.lit 1)), pc := 0, vars := [], stalls := false, busFault := false } }

/-- A host step issues, the block's step performs, and a write while one is pending is E_BUSY (R365). -/
theorem test_turns :
    (nextState? (step (twoNops [.host]))).map (fun t => (t.busy, t.host.pc)) = some (true, 1) ∧
    (nextState? (Host.Core.run core 2 (twoNops [.host, .host]))).map (fun t => t.statusWord) = some 0x203 ∧
    (nextState? (Host.Core.run core 2 (twoNops [.host, .block]))).map (fun t => t.statusWord) = some 0 := by
  decide

/-- R373: with no turn scheduled a stalling host stands still, and the block still performs. -/
theorem test_host_stalls :
    step ((twoNops []).setHost { (twoNops []).host with stalls := true }) =
      .next ((twoNops []).setHost { (twoNops []).host with stalls := true }) ∧
    (nextState? (step { busy idle .u128Add 2 3 with host := { idle.host with stalls := true } })).map resNat = some 5 :=
  ⟨rfl, by decide⟩

/-- R112: a text with a qualifier its opcode does not admit, and a text that writes no command (U10). -/
theorem test_assemble_text :
    assembleText "phx.next.cor i1" = .ok (.phxNext .i1 .corrected) ∧
    assembleText "lfc.next.cor i0" = .error (.extraVariant .lfcNext) ∧
    assembleText "lfc.jump i0" = .error (.notACommand "lfc.jump i0") := by
  decide +kernel

/-- R113's expansions: `wait` reads STATUS and branches back to itself; `wr128` writes LO first. -/
theorem test_assemble :
    assemble 0 [.wr128 .arg0 (.lit 5), .wait 7] =
      .ok [.memWrite 0x010 8 (.bits 63 0 (.lit 5)), .memWrite 0x018 8 (.bits 127 64 (.lit 5)), .memRead 0x008 8 (.var 7),
        .ifGoto (.eq (.bits 0 0 (.var (.var 7))) (.lit 1)) 2] :=
  rfl

/-! ## Witnesses: for each obligation with hypotheses, concrete states and operands that meet them, clause by clause -/

/-- `seeded` with an LFC.NEXT of LFC[0] pending. -/
def nextPending : State := busy seeded (.lfcNext .i0) 0 0

/-- The whole-machine invariant of a state of the instances of `seeded`, with any latch of a free command. -/
theorem inv_of_seeded {s : State} (hc : s.cfg = c16) (hl : s.lfc = seeded.lfc) (hx : s.phx = seeded.phx)
    (hq : s.seedq.length ≤ 4) (he : s.errorRecordOk = true) (hp : s.pendingOk = true) (hv : varsOk s.host.vars = true) :
    s.Inv := by
  refine ⟨by rw [hc]; decide, fun n => ?_, fun n => ?_, by rw [hc]; exact hq, he, hp, hv⟩
  · rw [hc, hl]; cases n <;> decide
  · rw [hc, hx]; cases n <;> decide

theorem nextPending_Inv : nextPending.Inv := inv_of_seeded rfl rfl rfl (by decide) rfl rfl rfl

/-- A seeded PHX instance right after seeding is cache-valid. -/
theorem seeded_cacheValid (n : Inst) : (seeded.phx.get n).st.cacheValid c16 := by
  cases n <;> exact .inl ⟨rfl, rfl, rfl⟩

/-- The cache rule's other case: after the first block (V47). -/
theorem block_cacheValid :
    PhxState.cacheValid c16
      { X := [1, 0, 0, 0], K := keyV47, Y := [0x0E847852, 0xADDB136A, 0x59B5BA7A, 0x7062AC6B], j := 0 } :=
  .inr ⟨.corrected, [0, 0, 0, 0], by decide, by decide, by decide +kernel⟩

theorem witness_IllegalWords :
    (∀ i, decode (0x000 : Word) ≠ .ok i) ∧ (∀ i, decode (0x8000000000000022 : Word) ≠ .ok i) ∧
    (∀ i, decode (0x115 : Word) ≠ .ok i) ∧ (∀ i, decode (0x212 : Word) ≠ .ok i) ∧ idle.pend = none := by
  refine ⟨?_, ?_, ?_, ?_, rfl⟩ <;> intro i h <;> cases h

theorem witness_StepPerformsPending :
    nextPending.cfg.wf = true ∧ nextPending.pend = some (latch (.lfcNext .i0) 0 0 []) ∧ nextPending.turns = [] ∧
    (nextPending.setTurns [.block]).turns = [.block] ∧
    ((twoNops []).cfg.wf = true ∧ (twoNops []).turns = [] ∧ (twoNops []).pend = none ∧
      ((twoNops []).setHost { (twoNops []).host with stalls := true }).host.stalls = true) := by
  decide

/-- The host stands before `wr CMD, 0x17`, at BASE = 256, and it is its turn. -/
def beforeCmd : State :=
  { State.resetOf { c16 with base := 256 } with
    turns := [.host], host := { prog := [.memWrite 256 8 (.lit 0x17)], pc := 0, vars := [], stalls := false, busFault := false } }

theorem witness_StepIssuesWrittenWord :
    beforeCmd.cfg.wf = true ∧ beforeCmd.pend = none ∧ beforeCmd.turns = [.host] ∧
    beforeCmd.host.prog[beforeCmd.host.pc]? = some (.memWrite beforeCmd.cfg.base 8 (.lit 0x17)) ∧
    decodeBytes (leBytes 8 0x17) = some .lfcMax := by
  decide

/-- Every clause of IllFormedConfigRefused has a configuration that meets it and no other. -/
theorem witness_IllFormedConfigRefused :
    { c16 with wL := 0 }.wL = 0 ∧ 64 < { c16 with wL := 65 }.wL ∧ { c16 with sL := 0 }.sL = 0 ∧
    { c16 with sL := 4 }.rL ≤ { c16 with sL := 4 }.sL ∧ { c16 with wP := 0 }.wP = 0 ∧ 64 < { c16 with wP := 65 }.wP ∧
    ({ c16 with nP := 3 }.nP ≠ 2 ∧ { c16 with nP := 3 }.nP ≠ 4) ∧ { c16 with rP := 0 }.rP = 0 ∧
    { tiny with constP := [0xD3] }.constP.length ≠ tiny.nP ∧
    (∃ v ∈ { tiny with constP := [0xD3, 0x100] }.constP, 2 ^ tiny.wP ≤ v) ∧ { c16 with base := 255 }.base % 256 ≠ 0 := by
  decide

theorem witness_IssueRule :
    nextPending.pend ≠ none ∧ idle.pend = none ∧ (∀ i, decode (0x000 : Word) ≠ .ok i) ∧
    (decode (0x012 : Word) = .ok (.lfcNext .i0) ∧ issueCheck (.lfcNext .i0) idle.opB idle = some .unseeded) ∧
    (decode (0x011 : Word) = .ok (.lfcSeedseq .i0 .literal) ∧
      issueCheck (.lfcSeedseq .i0 .literal) idle.opB idle = none ∧
      (idle.setSeedq [1, 2, 3]).seedq.length < wordsNeeded c16 (.lfcSeedseq .i0 .literal) ∧
      wordsNeeded c16 (.lfcSeedseq .i0 .literal) ≤ (idle.setSeedq [1, 2, 3, 4]).seedq.length) := by
  refine ⟨by decide, rfl, (fun i h => by cases h), ⟨rfl, by decide⟩, rfl, by decide, by decide, by decide⟩

theorem witness_IssueChecks :
    idle.pend = none ∧ seeded.pend = none ∧ (idle.lfc.get .i0).seeded = false ∧ (idle.phx.get .i1).seeded = false ∧
    ((seeded.lfc.get .i1).seeded = true ∧ lfcHasPred c16 (seeded.lfc.get .i1).st = false) ∧
    (idle.arg1Hi = 0 ∧ idle.arg1Lo = 0) ∧
    ((seeded.lfc.get .i0).seeded = true ∧ lfcHasPred c16 (seeded.lfc.get .i0).st = true) ∧
    (seeded.phx.get .i0).seeded = true ∧ (seeded.lfc.i0.seeded = true ∧ seeded.lfc.i1.seeded = true) ∧
    (seeded.phx.i0.seeded = true ∧ seeded.phx.i1.seeded = true) ∧ (seeded.setArg1Hi 1).arg1Hi ≠ 0 ∧
    wordsNeeded c16 (.lfcSeedseq .i0 .literal) ≤ (seeded.setSeedq [1, 2, 3, 0]).seedq.length ∧
    wordsNeeded c16 .nop ≤ seeded.seedq.length := by
  decide

theorem witness_ErrorRecordRule : idle.err = false ∧ (idle.raise .busy).err = true := by decide

theorem witness_ErrorRecordDoesNotBlock :
    (∃ t, exec (.lfcNext .i0) nextPending = .next t) ∧ (∃ t, exec (.lfcNext .i0) idle = .next t) := ⟨⟨_, rfl⟩, ⟨_, rfl⟩⟩

theorem witness_StatusRegister :
    idle.cfg.wf = true ∧ (2 : Word).getLsbD 1 = true ∧ (0xFFFFFFFFFFFFFFFD : Word).getLsbD 1 = false := by decide

/-- Each clause of BusErrors at a boundary: widths 4, 0 and 9; misaligned offsets; the ends of the reserved range; CMD
and SEEDQ read; RES, SEEDQ_COUNT, SEEDED and the first and last CFG register written. -/
theorem witness_BusErrors :
    ([(0x008, 4), (0x008, 0), (0x008, 9), (0x001, 8), (0x0FF, 8), (0x058, 8), (0x07F, 8), (0x000, 8), (0x040, 8)].all
      fun (p : Nat × Nat) => decide (p.1 < 256 ∧ (p.2 ≠ 8 ∨ p.1 % 8 ≠ 0 ∨ (0x058 ≤ p.1 ∧ p.1 < 0x080) ∨ p.1 = 0x000 ∨
        p.1 = 0x040))) = true ∧
    ([0x00C, 0x058, 0x078, 0x030, 0x038, 0x048, 0x050, 0x080, 0x0F8].all fun (off : Nat) => decide (off < 256 ∧
      ((leBytes 8 0).length ≠ 8 ∨ off % 8 ≠ 0 ∨ (0x058 ≤ off ∧ off < 0x080) ∨ off = 0x030 ∨ off = 0x038 ∨ off = 0x048 ∨
        off = 0x050 ∨ 0x080 ≤ off))) = true ∧ (leBytes 4 0).length ≠ 8 ∧ (nextState? (step badAccess)).isSome = true ∧
    badAccess.nextOpIsBusError = true ∧ badAccess.nextTurn.1 = .host ∧ (nextState? (step (twoNops []))).isSome = true ∧
    (twoNops []).nextOpIsBusError = false := by
  decide

theorem witness_LegalReads :
    Reg.status ≠ .cmd ∧ Reg.status ≠ .seedq ∧ Reg.cfgSeedqDepth ≠ .cmd ∧ (7 : Nat) < 8 ∧
    (seeded.setSeedq [1]).seedq.length < 2 ^ 64 := by
  decide

theorem witness_SeedqPort :
    (idle.setSeedq [1, 2, 3]).seedq.length < c16.seedqDepth ∧ c16.seedqDepth ≤ (idle.setSeedq [1, 2, 3, 4]).seedq.length := by
  decide

theorem witness_OutsideWindow : (255 : Nat) < beforeCmd.cfg.base ∧ beforeCmd.cfg.base + 256 ≤ (512 : Nat) := by decide

theorem witness_CfgRegisters :
    (∃ t, step nextPending = .next t) ∧ Reg.cfgVersion.offset = 0x080 ∧
    (c16.wf = true ∧ c16.nP = 4 ∧ c16.rL < 2 ^ 32 ∧ c16.rP < 2 ^ 64) ∧ (tiny.wf = true ∧ tiny.nP = 2) :=
  ⟨⟨_, rfl⟩, by decide⟩

theorem witness_CommandFrame :
    (∃ t, exec (.lfcNext .i0) seeded = .next t) ∧ (∃ t, exec (.lfcNext .i0) nextPending = .next t) ∧
    seeded.pend = none ∧ nextPending.pend ≠ none ∧ Instr.lfcNext .i0 ≠ .seedqFlush :=
  ⟨⟨_, rfl⟩, ⟨_, rfl⟩, by decide⟩

theorem witness_PerformFrame :
    nextPending.pend = some (latch (.lfcNext .i0) 0 0 []) ∧ (∃ t, exec (.lfcNext .i0) nextPending = .next t) ∧
    (∃ t, exec (.lfcDiscard .i0) (busy seeded (.lfcDiscard .i0) 1 0) = .next t) ∧ leavesRes (.lfcDiscard .i0) = true :=
  ⟨rfl, ⟨_, rfl⟩, ⟨_, rfl⟩, rfl⟩

theorem witness_InstancesIndependent :
    (∃ t, exec (.lfcNext .i0) nextPending = .next t) ∧ namesLfc (.lfcNext .i0) .i1 = false ∧
    namesPhx (.lfcNext .i0) .i0 = false :=
  ⟨⟨_, rfl⟩, rfl, rfl⟩

theorem witness_SeededFlags :
    (∃ t, step nextPending = .next t) ∧ nextPending.nextTurn.1 ≠ .reset ∧ (nextPending.lfc.get .i1).seeded = true ∧
    (nextPending.phx.get .i1).seeded = true ∧
    (∃ t, exec (.lfcSeed .i0 .literal) (busy idle (.lfcSeed .i0 .literal) 1 0) = .next t) ∧
    (∃ t, exec (.phxSeed .i0) (busy idle (.phxSeed .i0) 1 0) = .next t) :=
  ⟨⟨_, rfl⟩, by decide, rfl, rfl, ⟨_, rfl⟩, ⟨_, rfl⟩⟩

theorem witness_OperandsAreLatched :
    (busy idle .u128Add 1 2).pend = some (latch .u128Add 1 2 []) ∧ (∃ t, exec .u128Add (busy idle .u128Add 1 2) = .next t) :=
  ⟨rfl, _, rfl⟩

theorem witness_ResetRule : nextPending.cfg.wf = true ∧ (nextPending.setTurns [.reset]).turns = [.reset] := by decide

theorem witness_ResetMeetsInvariant : tiny.wf = true ∧ c16.wf = true := by decide

theorem witness_StepKeepsInvariant : nextPending.Inv ∧ ∃ t, step nextPending = .next t := ⟨nextPending_Inv, _, rfl⟩

theorem witness_PerformCompletes : nextPending.Inv ∧ nextPending.pend = some (latch (.lfcNext .i0) 0 0 []) :=
  ⟨nextPending_Inv, rfl⟩

theorem witness_StepKeepsPhxCache :
    nextPending.Inv ∧ (∀ n, (nextPending.phx.get n).seeded = true → (nextPending.phx.get n).st.cacheValid nextPending.cfg) ∧
    (∃ t, step nextPending = .next t) ∧ (nextPending.phx.get .i0).seeded = true :=
  ⟨nextPending_Inv, fun n _ => seeded_cacheValid n, ⟨_, rfl⟩, rfl⟩

/-- The host stands at a `wait`, and an LFC.NEXT is pending. -/
def waiting : State :=
  { nextPending with
    host :=
      { prog := [.memRead 0x008 8 (.var 3), .ifGoto (.eq (.bits 0 0 (.var (.var 3))) (.lit 1)) 0], pc := 0
        vars := [(3, 1)], stalls := false, busFault := false } }

theorem witness_WaitEnds :
    waiting.Inv ∧ waiting.turns = [] ∧ waiting.host.stalls = false ∧ waiting.pend = some (latch (.lfcNext .i0) 0 0 []) ∧
    waiting.host.prog[waiting.host.pc]? = some (.memRead (waiting.cfg.base + 0x008) 8 (.var 3)) ∧
    waiting.host.prog[waiting.host.pc + 1]? =
      some (.ifGoto (.eq (.bits 0 0 (.var (.var 3))) (.lit 1)) waiting.host.pc) ∧
    ∃ t, exec (latch (.lfcNext .i0) 0 0 []).cmd waiting = .next t :=
  ⟨inv_of_seeded rfl rfl rfl (by decide) rfl rfl rfl, rfl, rfl, rfl, rfl, rfl, _, rfl⟩

theorem witness_AssemblerQualifiers :
    Mnem.lfcSeed.usesVar = true ∧ Mnem.lfcNext.usesVar = false ∧
    ((some Variant.literal).isSome = Mnem.lfcSeed.usesVar ∧ Mnem.lfcSeed.usesInst = true) ∧
    ((none : Option Variant).isSome = Mnem.u128Add.usesVar ∧ Mnem.u128Add.usesInst = false) ∧
    assembleCmd { mnemonic := .u128Ge, variant := none, inst := none } = .ok .u128Ge := by
  decide

/-- What most commands' statements ask: nothing pending, or this command pending. -/
theorem witness_ControlCommands : idle.pend = none ∧ (busy idle .nop 0 0).pend = some (latch .nop 0 0 []) ∧
    (busy idle .seedqFlush 0 0).pend = some (latch .seedqFlush 0 0 []) := by
  decide

theorem witness_LfcSeedRule :
    idle.pend = none ∧ (busy idle (.lfcSeed .i0 .corrected) 0 0).pend = some (latch (.lfcSeed .i0 .corrected) 0 0 []) ∧
    lfcConstruct c16 (lcgWords c16 ((latch (.lfcSeed .i0 .corrected) 0 0 []).a.toNat % 2 ^ 64)) .corrected =
      some seeded.lfc.i0.st := by
  decide +kernel

theorem witness_LfcSeedseqRule :
    idle.pend = none ∧ (idle.setSeedq [1, 2, 3]).seedq.length < c16.rL * (c16.wL / 32 + 1) ∧
    c16.rL * (c16.wL / 32 + 1) ≤ (idle.setSeedq [1, 2, 3, 0]).seedq.length ∧
    (latch (.lfcSeedseq .i0 .corrected) 0 0 [1, 2, 3, 0]).words.length = c16.rL * (c16.wL / 32 + 1) ∧
    lfcConstruct c16 [1, 2, 3, 0] .corrected = some { x := [2, 2, 3, 0], i := 0, carry := false } := by
  decide +kernel

theorem witness_LcgWordsRule : 0 < (lcgWords c16 0).length ∧ 2 + 1 < (lcgWords c16 0).length := by decide

theorem witness_PackingRule : ([1, 2, 3, 0] : List SeedWord).length = c16.rL * (c16.wL / 32 + 1) ∧ 3 < c16.rL := by decide

theorem witness_LfcNextRule :
    (idle.pend = none ∧ (idle.lfc.get .i0).seeded = false) ∧ (seeded.pend = none ∧ (seeded.lfc.get .i0).seeded = true) ∧
    nextPending.pend = some (latch (.lfcNext .i0) 0 0 []) ∧ (nextPending.lfc.get .i0).seeded = true := by
  decide

theorem witness_LfcBackRule :
    (idle.pend = none ∧ (idle.lfc.get .i0).seeded = false) ∧
    (seeded.pend = none ∧ (seeded.lfc.get .i1).seeded = true ∧ lfcHasPred c16 (seeded.lfc.get .i1).st = false) ∧
    ((seeded.lfc.get .i0).seeded = true ∧ lfcHasPred c16 (seeded.lfc.get .i0).st = true) ∧
    (busy seeded (.lfcBack .i0) 0 0).pend = some (latch (.lfcBack .i0) 0 0 []) := by
  decide

/-- V30 to V32: t = 0, t = M, the walk deciding each way, and the walk exhausted each way. -/
theorem witness_BackwardStepRule :
    c16.wf = true ∧
    ([⟨[5, 7, 5, 9], 1, false⟩, ⟨[5, 7, 5, 9], 1, true⟩, ⟨[100, 300, 250, 400], 1, false⟩, ⟨[100, 300, 250, 200], 1, false⟩,
      ⟨[100, 300, 250, 300], 1, false⟩, ⟨[100, 300, 99, 300], 1, true⟩].all
      fun (st : LfcState) => st.wf c16 && lfcHasPred c16 st) = true ∧
    (lfcBack c16 ⟨[100, 300, 250, 300], 1, false⟩ = some (100, ⟨[149, 300, 250, 300], 0, true⟩)) ∧
    (lfcBack c16 ⟨[100, 300, 99, 300], 1, true⟩ = some (100, ⟨[65535, 300, 99, 300], 0, false⟩)) := by
  decide

theorem witness_LfcDiscardRule :
    (idle.pend = none ∧ (idle.lfc.get .i0).seeded = false) ∧ (seeded.pend = none ∧ (seeded.lfc.get .i0).seeded = true) ∧
    (busy seeded (.lfcDiscard .i0) 12 0).pend = some (latch (.lfcDiscard .i0) 12 0 []) := by
  decide

theorem witness_LfcEqMinMax :
    (idle.pend = none ∧ idle.lfc.i0.seeded = false) ∧
    (seeded.pend = none ∧ seeded.lfc.i0.seeded = true ∧ seeded.lfc.i1.seeded = true) ∧
    (busy seeded .lfcEq 0 0).pend = some (latch .lfcEq 0 0 []) ∧ seeded.lfc.i0.st.x ≠ seeded.lfc.i1.st.x ∧
    ((seeded.setLfc .i1 seeded.lfc.i0).lfc.i0.st = (seeded.setLfc .i1 seeded.lfc.i0).lfc.i1.st) ∧ c16.wf = true := by
  decide

theorem witness_LfcRange :
    c16.wf = true ∧ seeded.lfc.i0.st.wf c16 = true ∧ (lfcBack c16 seeded.lfc.i0.st).isSome = true := by decide

theorem witness_ForwardUndoesBackward :
    c16.wf = true ∧ (⟨[54994, 2533, 52484, 29490], 1, true⟩ : LfcState).wf c16 = true ∧
    lfcBack c16 ⟨[54994, 2533, 52484, 29490], 1, true⟩ = some (54994, seeded.lfc.i0.st) := by
  decide

theorem witness_PredecessorTest :
    c16.wf = true ∧ seeded.lfc.i1.st.wf c16 = true ∧ lfcHasPred c16 seeded.lfc.i1.st = false ∧
    lfcHasPred c16 seeded.lfc.i0.st = true := by
  decide

theorem witness_VariantsSameOutputs :
    c16.wf = true ∧ lfcConstruct c16 (lcgWords c16 0) .corrected = some seeded.lfc.i0.st := by decide +kernel

theorem witness_NextThenBackRestores :
    c16.wf = true ∧ lfcConstruct c16 (lcgWords c16 0) .corrected = some seeded.lfc.i0.st := by decide +kernel

theorem witness_WarmupNeverFaults : c16.wf = true := by decide

theorem witness_Test16Returns : (0 : Nat) < 12 := by decide

theorem witness_PhxSeedRules :
    idle.pend = none ∧ (idle.setSeedq [1]).seedq.length < c16.nP / 2 * ((c16.wP - 1) / 32 + 1) ∧
    c16.nP / 2 * ((c16.wP - 1) / 32 + 1) ≤ (idle.setSeedq [1, 2]).seedq.length ∧
    (busy idle (.phxSeed .i0) 5 0).pend = some (latch (.phxSeed .i0) 5 0 []) ∧
    (latch (.phxSeedseq .i0) 0 0 [1, 2]).words.length = c16.nP / 2 * ((c16.wP - 1) / 32 + 1) := by
  decide

/-- The cursor at the end, and before it. -/
theorem witness_PhxNextRule :
    (idle.pend = none ∧ (idle.phx.get .i0).seeded = false) ∧ (seeded.pend = none ∧ (seeded.phx.get .i0).seeded = true) ∧
    (busy seeded (.phxNext .i0 .literal) 0 0).pend = some (latch (.phxNext .i0 .literal) 0 0 []) ∧
    (seeded.phx.get .i0).st.j + 1 = c16.nP ∧
    ((seeded.setPhx .i0 { seeded := true, st := { X := [1, 0, 0, 0], K := [0, 0], Y := [7, 8, 9, 10], j := 2 } }).phx.get
      .i0).st.j + 1 ≠ c16.nP := by
  decide

theorem witness_PhxDiscardRule :
    (idle.pend = none ∧ (idle.phx.get .i0).seeded = false) ∧ (seeded.pend = none ∧ (seeded.phx.get .i0).seeded = true) ∧
    (busy seeded (.phxDiscard .i0 .literal) 4 0).pend = some (latch (.phxDiscard .i0 .literal) 4 0 []) := by
  decide

theorem witness_PhxEqMinMax :
    (idle.pend = none ∧ idle.phx.i0.seeded = false) ∧
    (seeded.pend = none ∧ seeded.phx.i0.seeded = true ∧ seeded.phx.i1.seeded = true) ∧
    (busy seeded .phxEq 0 0).pend = some (latch .phxEq 0 0 []) ∧ seeded.phx.i0.st = seeded.phx.i1.st ∧
    (seeded.setPhx .i1 { seeded := true, st := phxSeedInt c16 6 }).phx.i1.st.K ≠ seeded.phx.i0.st.K ∧ c16.wf = true := by
  decide

theorem witness_PhxMulhiloRule :
    idle.cfg.wf = true ∧ (busy idle .phxMulhilo 3 5).pend = some (latch .phxMulhilo 3 5 []) ∧
    (2 ^ 32 - 1 < 2 ^ c16.wP ∧ 0 < 2 ^ c16.wP) := by
  decide

theorem witness_RoundFunctions :
    (tiny.nP = 2 ∧ c16.nP = 4) ∧ (0 < c16.rP ∧ 9 < c16.rP) ∧
    (c16.wf = true ∧ phxWordsOk c16 c16.nP [2 ^ 32 - 1, 0, 1, 2] = true) := by
  decide

theorem witness_VariantConjugation :
    (c16.wf = true ∧ [1, 2, 3, 4].length = c16.nP) ∧ (tiny.wf = true ∧ [1, 2].length = tiny.nP) := by decide

theorem witness_CounterRule :
    c16.wf = true ∧ phxWordsOk c16 c16.nP [2 ^ 32 - 1, 2 ^ 32 - 1, 2 ^ 32 - 1, 2 ^ 32 - 1] = true := by decide

theorem witness_PhxRange : c16.wf = true ∧ seeded.phx.i0.st.wf c16 = true := by decide

theorem witness_U128AddSub : idle.pend = none ∧ (busy idle .u128Add 1 2).pend = some (latch .u128Add 1 2 []) := by decide

theorem witness_U128Shifts : idle.pend = none ∧ (busy idle .u128Shl 1 127).pend = some (latch .u128Shl 1 127 []) := by decide

theorem witness_U128MulMod :
    (idle.pend = none ∧ idle.arg1Hi = 0 ∧ idle.arg1Lo = 0) ∧ (idle.setArg1Lo 1).arg1Lo ≠ 0 ∧
    (busy idle .u128Mod 5 7).pend = some (latch .u128Mod 5 7 []) ∧ (latch .u128Mod 5 7 []).b ≠ 0 ∧
    ((latch .u128Mul (2 ^ 64 - 1) 1 []).a.toNat < 2 ^ 64 ∧ (latch .u128Mul (2 ^ 64 - 1) 1 []).b.toNat < 2 ^ 64) := by
  decide

theorem witness_U128Compare : idle.pend = none ∧ (busy idle .u128Le 1 2).pend = some (latch .u128Le 1 2 []) := by decide

theorem witness_U128Laws : (5 : U128) ≠ 0 ∧ 64 + 63 < 128 := by decide

end Sys2Proof.Tests
end

section
/-! PROOFS. The configuration (00_scope.md R7, R8): what a broken constraint does to the step. -/

namespace Sys2Proof.Machine

/-- R8, log entry 19: the step looks at the configuration before anything else. -/
theorem step_of_not_wf {s : State} (h : ¬ s.cfg.wf = true) : step s = .refused .illFormedConfig := if_neg h

/-- Settles O6: each broken constraint contradicts its own conjunct of `Config.wf_iff`, the one on the width of the
constants being the only one with a quantifier. -/
theorem illFormedConfigRefused : Obligations.IllFormedConfigRefused := by
  intro s hbroken
  refine step_of_not_wf fun hwf => ?_
  obtain ⟨hLfcWidth, hLags, hPhxWidth, hPhxCount, hRounds, ⟨hLength, hConsts⟩, hBase⟩ := Config.wf_iff.mp hwf
  have hNoWideConst : ¬ ∃ v ∈ s.cfg.constP, 2 ^ s.cfg.wP ≤ v :=
    fun ⟨v, hv, hwide⟩ => Nat.not_lt.mpr hwide (hConsts v hv)
  simp only [hNoWideConst, false_or] at hbroken
  omega

end Sys2Proof.Machine
end

section
/-! PROOFS. What a step can do, said once (10_state.md R30): apart from a reset turn, every step is a sequence of
elementary moves, so a property that each move and reset keep is kept by every step. -/

namespace Sys2Proof.Machine

/-! ## What issue and perform leave -/

/-- Recording an error writes the error record and nothing else (R322, R324). -/
theorem State.raise_frame (s : State) (e : ErrCode) :
    s.raise e = { s with err := (s.raise e).err, eovf := (s.raise e).eovf, ecode := (s.raise e).ecode } := by
  unfold State.raise
  split <;> rfl

/-- An issue writes the error record, the latch and the FIFO, and nothing else (R107). -/
theorem State.issue_frame (s : State) (i : Instr) :
    s.issue i =
      { s with
        err := (s.issue i).err, eovf := (s.issue i).eovf, ecode := (s.issue i).ecode
        pend := (s.issue i).pend, seedq := (s.issue i).seedq } := by
  rcases s.issue_cases i with ⟨e, -, h⟩ | ⟨-, -, h⟩ | ⟨-, -, h⟩ <;> rw [h]
  · simpa using s.raise_frame e
  · simpa using s.raise_frame .seedqUnderflow
  · rfl

@[simp] theorem State.issue_cfg (s : State) (i : Instr) : (s.issue i).cfg = s.cfg := by
  rw [s.issue_frame i]

@[simp] theorem State.issue_lfc (s : State) (i : Instr) : (s.issue i).lfc = s.lfc := by
  rw [s.issue_frame i]

@[simp] theorem State.issue_phx (s : State) (i : Instr) : (s.issue i).phx = s.phx := by
  rw [s.issue_frame i]

@[simp] theorem State.issue_resLo (s : State) (i : Instr) : (s.issue i).resLo = s.resLo := by
  rw [s.issue_frame i]

@[simp] theorem State.issue_resHi (s : State) (i : Instr) : (s.issue i).resHi = s.resHi := by
  rw [s.issue_frame i]

@[simp] theorem State.issue_host (s : State) (i : Instr) : (s.issue i).host = s.host := by
  rw [s.issue_frame i]

/-- A perform ends BUSY and writes RES, the engines and the FIFO, and nothing else (R110, R111). -/
theorem Performed.frame {i : Instr} {p : Pending} {s t : State} (h : Performed i p s t) :
    t = { s with
      resLo := t.resLo, resHi := t.resHi, pend := none, seedq := t.seedq, lfc := t.lfc, phx := t.phx } := by
  cases h <;> rfl

/-! ## Moves -/

/-- The elementary moves that every step is made of, reset apart. -/
inductive Move : State → State → Prop where
  | turns (s : State) (ts : List Turn) : Move s (s.setTurns ts)
  | host (s : State) (h : HostAgent) (hvars : varsOk s.host.vars = true → varsOk h.vars = true) : Move s (s.setHost h)
  | freeCtr (s : State) (k : Nat) : Move s (s.setFreeCtr k)
  | args (s : State) (a0 a1 b0 b1 : Word) :
      Move s { s with arg0Lo := a0, arg0Hi := a1, arg1Lo := b0, arg1Hi := b1 }
  | raise (s : State) (e : ErrCode) : Move s (s.raise e)
  | clearError (s : State) : Move s s.clearError
  | push (s : State) (w : SeedWord) (hroom : s.seedq.length < s.cfg.seedqDepth) : Move s (s.setSeedq (s.seedq ++ [w]))
  | issue (s : State) (i : Instr) (hidle : s.pend = none) : Move s (s.issue i)
  | perform {s t : State} (p : Pending) (hp : s.pend = some p) (hperf : performable p.cmd p s = true)
      (h : Performed p.cmd p s t) : Move s t

/-- Some moves, one after the other. -/
abbrev Moves : State → State → Prop := Relation.ReflTransGen Move

theorem Moves.keep {P : State → Prop} (hmove : ∀ {s t}, Move s t → P s → P t) {s t : State} (h : Moves s t)
    (hs : P s) : P t := by
  induction h with
  | refl => exact hs
  | tail _ hm ih => exact hmove hm ih

theorem busError_moves (s : State) : Moves s s.busError :=
  .tail (.single (.raise s .bus)) (.host _ _ (by simp))

theorem pushSeed_moves (s : State) (w : SeedWord) : Moves s (s.pushSeed w) := by
  unfold State.pushSeed
  split
  · exact .single (.push s w (by assumption))
  · exact .single (.raise s _)

theorem writeStatus_moves (s : State) (v : Word) : Moves s (writeStatus s v) := by
  unfold writeStatus
  split
  · exact .single (.clearError s)
  · exact .refl

/-- A write to CMD raises, or it issues while no command is pending. -/
theorem writeCmd_moves {s t : State} {w : Word} (h : writeCmd s w = .next t) : Moves s t := by
  unfold writeCmd at h
  split at h
  · cases h; exact .single (.raise s _)
  · have hidle : s.pend = none := by simpa [State.busy] using ‹¬ s.busy = true›
    split at h
    · cases h; exact .single (.raise s _)
    · rw [exec_idle _ hidle] at h
      cases h
      exact .single (.issue s _ hidle)

theorem writeReg_moves {s t : State} {r : Reg} {v : Word} (h : writeReg s r v = .next t) : Moves s t := by
  cases r
  case cmd => exact writeCmd_moves h
  case status => cases h; exact writeStatus_moves s v
  case arg0Lo => cases h; exact .single (.args s v s.arg0Hi s.arg1Lo s.arg1Hi)
  case arg0Hi => cases h; exact .single (.args s s.arg0Lo v s.arg1Lo s.arg1Hi)
  case arg1Lo => cases h; exact .single (.args s s.arg0Lo s.arg0Hi v s.arg1Hi)
  case arg1Hi => cases h; exact .single (.args s s.arg0Lo s.arg0Hi s.arg1Lo v)
  case seedq => cases h; exact pushSeed_moves s _
  all_goals cases h; exact busError_moves s

theorem busWrite_moves {s t : State} {addr : Nat} {data : List Byte} (h : busWrite s addr data = .next t) :
    Moves s t := by
  unfold busWrite at h
  split at h
  · split at h
    · exact writeReg_moves h
    · cases h; exact busError_moves s
  · cases h; exact .refl

theorem busRead_moves (s : State) (addr width : Nat) : Moves s (busRead s addr width).2 := by
  unfold busRead
  split
  · split
    · exact .refl
    · exact busError_moves s
  · exact .single (.freeCtr s _)

/-! ## Turns -/

theorem HostAgent.store_varsOk (h : HostAgent) (dst : VarRef) (v : Nat) (hv : varsOk h.vars = true) :
    varsOk (h.store dst v).vars = true := varSet_varsOk _ v hv

theorem hostOp_moves {s t : State} {op : HostOp} (h : hostOp s op = .next t) : Moves s t := by
  cases op with
  | memRead addr width dst =>
    cases h
    exact (busRead_moves s addr width).tail (.host _ _ (HostAgent.store_varsOk _ dst _))
  | memWrite addr width v => exact .head (.host s s.host.advance id) (busWrite_moves h)
  | set dst v => cases h; exact .single (.host s _ (HostAgent.store_varsOk _ dst _))
  | goto target => cases h; exact .single (.host s _ id)
  | ifGoto c target => cases h; exact .single (.host s _ (by split <;> exact id))

theorem hostStep_moves {s t : State} (h : hostStep s = .next t) : Moves s t := by
  unfold hostStep at h
  split at h
  · exact hostOp_moves h
  · cases h; exact .refl

theorem blockStep_moves {s t : State} (h : blockStep s = .next t) : Moves s t := by
  unfold blockStep at h
  split at h
  next p hp =>
    obtain ⟨hperf, hdone⟩ := exec_performed hp h
    exact .single (.perform p hp hperf hdone)
  · cases h; exact .refl

/-- Everything a step can do when it answers a next state: the configuration is legal, and the turn was a reset or
the step is a sequence of moves. -/
theorem step_cases {s t : State} (h : step s = .next t) :
    s.cfg.wf = true ∧
      (s.nextTurn.1 = .reset ∧ t = (s.setTurns s.nextTurn.2).resetBlock ∨ Moves s t) := by
  unfold step at h
  split at h
  next hwf =>
    refine ⟨hwf, ?_⟩
    have hturn : Moves s (s.setTurns s.nextTurn.2) := .single (.turns s _)
    generalize s.nextTurn.1 = turn at h
    cases turn with
    | host => exact .inr (hturn.trans (hostStep_moves h))
    | block => exact .inr (hturn.trans (blockStep_moves h))
    | reset => exact .inl ⟨rfl, (Host.Outcome.next.inj h).symm⟩
    | idle => cases h; exact .inr hturn
  · cases h

/-- A property that every move and reset keep is kept by every step. -/
theorem step_keeps {P : State → Prop} (hmove : ∀ {s t}, Move s t → P s → P t)
    (hreset : ∀ s : State, P s → P s.resetBlock) {s t : State} (h : step s = .next t) (hs : P s) : P t := by
  obtain ⟨-, ⟨-, rfl⟩ | hmoves⟩ := step_cases h
  · exact hreset _ (hmove (.turns s _) hs)
  · exact hmoves.keep hmove hs

end Sys2Proof.Machine
end

section
/-! PROOFS. The engines keep their words in range (10_state.md R46, R48): the LFC steps and constructions, and the PHX
rounds, counter, seedings and next step. -/

namespace Sys2Proof.Machine

variable {c : Config}

/-! ## LFC (R46) -/

theorem LfcState.slot_lt {st : LfcState} (h : st.wf c = true) (j : Nat) : st.slot j < 2 ^ c.wL :=
  getD_lt (by positivity) (LfcState.wf_iff.mp h).2.1 j

/-- Replacing one slot by a word in range and moving the index in range keeps the state well formed. -/
theorem LfcState.set_wf {st : LfcState} (h : st.wf c = true) (k : Nat) {y i : Nat} (carry : Bool)
    (hy : y < 2 ^ c.wL) (hi : i < c.rL) : LfcState.wf c { x := st.x.set k y, i := i, carry := carry } = true := by
  obtain ⟨hlen, hx, -⟩ := LfcState.wf_iff.mp h
  exact LfcState.wf_iff.mpr ⟨by simpa using hlen, forall_mem_set k hx hy, hi⟩

theorem lfcFwd_wf {st : LfcState} (h : st.wf c = true) : (lfcFwd c st).2.wf c = true := by
  have hi : st.i < c.rL := (LfcState.wf_iff.mp h).2.2
  refine LfcState.set_wf h st.i _ ?_ (Nat.mod_lt _ (by omega))
  have htemp : st.slot st.i + st.carry.toNat ≤ 2 ^ c.wL := by
    have := LfcState.slot_lt h st.i
    have := st.carry.toNat_le
    omega
  have hxs := LfcState.slot_lt h (lfcShort c st.i)
  have hmod : c.modL = 2 ^ c.wL := rfl
  split <;> omega

theorem lfcFwdN_wf (n : Nat) {st : LfcState} (h : st.wf c = true) : (lfcFwdN c n st).wf c = true := by
  induction n generalizing st with
  | zero => exact h
  | succ n ih => rw [lfcFwdN_succ]; exact ih (lfcFwd_wf h)

/-- The slot that a backward step restores is a word: at the one sum out of range, `2^W_L`, the carry is 1 (R149). -/
theorem lfcBackSum_sub_carry_lt {st : LfcState} (h : lfcHasPred c st = true) (i : Nat) :
    (lfcBackSum c st - (lfcBackCarry c st i (lfcBackSum c st)).toNat).toNat < 2 ^ c.wL := by
  obtain ⟨h0, hM⟩ := lfcHasPred_iff.mp h
  have hpos : 0 < 2 ^ c.wL := by positivity
  by_cases htop : lfcBackSum c st = ((2 ^ c.wL : Nat) : Int)
  · have hcarry : lfcBackCarry c st i (lfcBackSum c st) = true := by
      unfold lfcBackCarry
      rw [if_neg (by omega), if_pos htop]
    rw [hcarry, htop, Bool.toNat_true]
    omega
  · omega

theorem lfcBack_wf {st st' : LfcState} {y : Nat} (h : st.wf c = true) (hb : lfcBack c st = some (y, st')) :
    st'.wf c = true := by
  have hi : st.i < c.rL := (LfcState.wf_iff.mp h).2.2
  obtain ⟨hpred, -, cp, rfl, rfl⟩ := lfcBack_eq_some hb
  exact LfcState.set_wf h _ _ (lfcBackSum_sub_carry_lt hpred _) (Nat.mod_lt _ (by omega))

theorem lfcBackN_wf {n : Nat} {st st' : LfcState} (h : st.wf c = true) (hb : lfcBackN c n st = some st') :
    st'.wf c = true := by
  induction n generalizing st with
  | zero => cases hb; exact h
  | succ n ih =>
    unfold lfcBackN at hb
    split at hb
    next y st₁ hstep => exact ih (lfcBack_wf h hstep) hb
    · cases hb

theorem lfcLiteral_wf (hr : 0 < c.rL) (z : List SeedWord) : (lfcLiteral c z).wf c = true :=
  LfcState.wf_iff.mpr ⟨packGroups_length .., packGroups_lt _ _ _ _, hr⟩

theorem lfcConstruct_wf (hr : 0 < c.rL) {z : List SeedWord} {v : Variant} {st : LfcState}
    (h : lfcConstruct c z v = some st) : st.wf c = true := by
  cases v with
  | literal => cases h; exact lfcLiteral_wf hr z
  | corrected => exact lfcBackN_wf (lfcFwdN_wf c.rL (lfcLiteral_wf hr z)) h

theorem LfcInst.reset_wf (hr : 0 < c.rL) : (LfcInst.reset c).st.wf c = true := by
  refine LfcState.wf_iff.mpr ⟨List.length_replicate, fun v hv => ?_, hr⟩
  rw [List.eq_of_mem_replicate hv]
  positivity

/-! ## PHX (R48) -/

theorem xor_xor_lt {w a b d : Nat} (ha : a < 2 ^ w) (hb : b < 2 ^ w) (hd : d < 2 ^ w) : a ^^^ b ^^^ d < 2 ^ w :=
  Nat.xor_lt_two_pow (Nat.xor_lt_two_pow ha hb) hd

theorem roundMul_lt (hc : c.wf = true) (k : Nat) : c.roundMul k < 2 ^ c.wP := by
  obtain ⟨-, -, -, -, -, ⟨-, hconsts⟩, -⟩ := Config.wf_iff.mp hc
  exact getD_lt (by positivity) hconsts _

/-- A round maps `N_P` words to `N_P` words, under any round keys that are words. -/
theorem phxRound_wordsOk (hc : c.wf = true) (v : Variant) {key : Nat → Nat} (hkey : ∀ k, key k < 2 ^ c.wP)
    {Z : List Nat} (hZ : phxWordsOk c c.nP Z = true) : phxWordsOk c c.nP (phxRound c v key Z) = true := by
  have hlane : ∀ k, Z.getD k 0 < 2 ^ c.wP := getD_lt (by positivity) (phxWordsOk_iff.mp hZ).2
  have hprod : ∀ k m, (mulhilo c (Z.getD k 0) (c.roundMul m)).1 < 2 ^ c.wP ∧
      (mulhilo c (Z.getD k 0) (c.roundMul m)).2 < 2 ^ c.wP :=
    fun k m => mulhilo_lt (hlane k) (roundMul_lt hc m)
  have hfold : ∀ k m q j, (mulhilo c (Z.getD k 0) (c.roundMul m)).1 ^^^ key q ^^^ Z.getD j 0 < 2 ^ c.wP :=
    fun k m q j => xor_xor_lt (hprod k m).1 (hkey q) (hlane j)
  obtain ⟨-, -, -, hn, -⟩ := Config.wf_iff.mp hc
  rw [phxWordsOk_iff]
  rcases hn with hn | hn <;> cases v <;>
    simp [phxRound, hn, roundCor2, roundCor4, roundLit2, roundLit4, hfold, hprod, -List.getD_eq_getElem?_getD]

theorem phxRounds_wordsOk (hc : c.wf = true) (v : Variant) (K : List Nat) (fuel q : Nat) {Z : List Nat}
    (hZ : phxWordsOk c c.nP Z = true) : phxWordsOk c c.nP (phxRounds c v K fuel q Z) = true := by
  induction fuel generalizing q Z with
  | zero => exact hZ
  | succ fuel ih => exact ih (q + 1) (phxRound_wordsOk hc v (fun k => Nat.mod_lt _ (by positivity)) hZ)

theorem phxBlock_wordsOk (hc : c.wf = true) (v : Variant) (K : List Nat) {X : List Nat}
    (hX : phxWordsOk c c.nP X = true) : phxWordsOk c c.nP (phxBlock c v K X) = true :=
  phxRounds_wordsOk hc v K c.rP 0 hX

theorem phxInc_wordsOk (X : List Nat) : phxWordsOk c c.nP (phxInc c X) = true :=
  phxWordsOk_iff.mpr ⟨phxInc_length c X, ctrWords_lt _ _ _⟩

theorem replicate_zero_wordsOk (n : Nat) : phxWordsOk c n (List.replicate n 0) = true := by
  refine phxWordsOk_iff.mpr ⟨List.length_replicate, fun v hv => ?_⟩
  rw [List.eq_of_mem_replicate hv]
  positivity

theorem nP_pos (hc : c.wf = true) : 0 < c.nP := by
  obtain ⟨-, -, -, hn, -⟩ := Config.wf_iff.mp hc
  omega

theorem phxSeeded_wf (hc : c.wf = true) {K : List Nat} (hK : phxWordsOk c (c.nP / 2) K = true) :
    (phxSeeded c K).wf c = true := by
  have := nP_pos hc
  exact PhxState.wf_iff.mpr
    ⟨replicate_zero_wordsOk _, hK, replicate_zero_wordsOk _, by simp only [phxSeeded]; omega⟩

theorem phxSeedInt_wf (hc : c.wf = true) (sd : Nat) : (phxSeedInt c sd).wf c = true := by
  obtain ⟨-, -, -, hn, -⟩ := Config.wf_iff.mp hc
  obtain ⟨-, hzeros⟩ := phxWordsOk_iff.mp (replicate_zero_wordsOk (c := c) (c.nP / 2 - 1))
  refine phxSeeded_wf hc (phxWordsOk_iff.mpr ⟨?_, ?_⟩)
  · rw [List.length_cons, List.length_replicate]
    omega
  · exact List.forall_mem_cons.mpr ⟨Nat.mod_lt _ (by positivity), hzeros⟩

theorem phxSeedSeq_wf (hc : c.wf = true) (z : List SeedWord) : (phxSeedSeq c z).wf c = true :=
  phxSeeded_wf hc (phxWordsOk_iff.mpr ⟨packGroups_length .., packGroups_lt _ _ _ _⟩)

theorem phxNext_wf (hc : c.wf = true) (v : Variant) {st : PhxState} (h : st.wf c = true) :
    (phxNext c v st).2.wf c = true := by
  obtain ⟨hX, hK, hY, hj⟩ := PhxState.wf_iff.mp h
  unfold phxNext
  split
  · exact PhxState.wf_iff.mpr ⟨phxInc_wordsOk st.X, hK, phxBlock_wordsOk hc v st.K hX, nP_pos hc⟩
  · exact PhxState.wf_iff.mpr ⟨hX, hK, hY, by simp only; omega⟩

theorem phxNextN_wf (hc : c.wf = true) (v : Variant) (n : Nat) {st : PhxState} (h : st.wf c = true) :
    (phxNextN c v n st).wf c = true := by
  induction n generalizing st with
  | zero => exact h
  | succ n ih => rw [phxNextN_succ]; exact ih (phxNext_wf hc v h)

theorem PhxInst.reset_wf (hc : c.wf = true) : (PhxInst.reset c).st.wf c = true :=
  PhxState.wf_iff.mpr
    ⟨replicate_zero_wordsOk _, replicate_zero_wordsOk _, replicate_zero_wordsOk _, nP_pos hc⟩

/-! ## The PHX cache (R48, R210, R212) -/

theorem phxSeeded_cacheValid (K : List Nat) : (phxSeeded c K).cacheValid c := .inl ⟨rfl, rfl, rfl⟩

/-- A next step at the end of the block generates one from the counter, which it increments; before the end it moves
the cursor only, which a fresh state is not. -/
theorem phxNext_cacheValid (hc : c.wf = true) (v : Variant) {st : PhxState} (hwf : st.wf c = true)
    (h : st.cacheValid c) : (phxNext c v st).2.cacheValid c := by
  obtain ⟨hX, -⟩ := PhxState.wf_iff.mp hwf
  unfold phxNext
  split
  · exact .inr ⟨v, st.X, hX, rfl, rfl⟩
  next hcursor =>
    rcases h with ⟨-, -, hfresh⟩ | hblock
    · have := nP_pos hc
      omega
    · exact .inr hblock

theorem phxNextN_cacheValid (hc : c.wf = true) (v : Variant) (n : Nat) {st : PhxState} (hwf : st.wf c = true)
    (h : st.cacheValid c) : (phxNextN c v n st).cacheValid c := by
  induction n generalizing st with
  | zero => exact h
  | succ n ih => rw [phxNextN_succ]; exact ih (phxNext_wf hc v hwf) (phxNext_cacheValid hc v hwf h)

end Sys2Proof.Machine
end

section
/-! PROOFS. The invariant (10_state.md R36, R40, R46, R48, 30_encoding.md R109) holds after reset and is kept by every
move, and so is the rule of the PHX cache (R48). -/

namespace Sys2Proof.Machine

theorem Pair.forall_get_set {α : Type} {Q : Inst → α → Prop} {p : Pair α} (n : Inst) {a : α}
    (hp : ∀ m, Q m (p.get m)) (ha : Q n a) (m : Inst) : Q m ((p.set n a).get m) := by
  rw [Pair.get_set]
  split
  next hm => exact hm ▸ ha
  · exact hp m

/-! ## What a perform makes of the engines and the FIFO -/

/-- A property of each LFC unit that seeding gives and the steps in both directions keep is kept by a perform. -/
theorem Performed.lfc_keep {Q : Inst → LfcInst → Prop} {i : Instr} {p : Pending} {s t : State}
    (h : Performed i p s t)
    (hseed : ∀ n z v st, lfcConstruct s.cfg z v = some st → Q n { seeded := true, st := st })
    (hfwdN : ∀ n k x, Q n x → Q n { seeded := x.seeded, st := lfcFwdN s.cfg k x.st })
    (hback : ∀ n x y st, Q n x → Machine.lfcBack s.cfg x.st = some (y, st) → Q n { seeded := x.seeded, st := st })
    (hs : ∀ n, Q n (s.lfc.get n)) : ∀ n, Q n (t.lfc.get n) := by
  cases h
  case lfcSeed n v st hst => exact Pair.forall_get_set n hs (hseed n _ _ _ hst)
  case lfcSeedseq n v st hst => exact Pair.forall_get_set n hs (hseed n _ _ _ hst)
  case lfcNext n => exact Pair.forall_get_set n hs (hfwdN n 1 _ (hs n))
  case lfcBack n y st hst => exact Pair.forall_get_set n hs (hback n _ _ _ (hs n) hst)
  case lfcDiscard n => exact Pair.forall_get_set n hs (hfwdN n p.count _ (hs n))
  all_goals exact hs

/-- A property of each PHX unit that seeding gives and the next step keeps is kept by a perform. -/
theorem Performed.phx_keep {Q : Inst → PhxInst → Prop} {i : Instr} {p : Pending} {s t : State}
    (h : Performed i p s t)
    (hseedInt : ∀ n sd, Q n { seeded := true, st := phxSeedInt s.cfg sd })
    (hseedSeq : ∀ n z, Q n { seeded := true, st := phxSeedSeq s.cfg z })
    (hnextN : ∀ n v k x, Q n x → Q n { seeded := x.seeded, st := phxNextN s.cfg v k x.st })
    (hs : ∀ n, Q n (s.phx.get n)) : ∀ n, Q n (t.phx.get n) := by
  cases h
  case phxSeed n => exact Pair.forall_get_set n hs (hseedInt n p.seed)
  case phxSeedseq n => exact Pair.forall_get_set n hs (hseedSeq n p.words)
  case phxNext n v => exact Pair.forall_get_set n hs (hnextN n v 1 _ (hs n))
  case phxDiscard n v => exact Pair.forall_get_set n hs (hnextN n v p.count _ (hs n))
  all_goals exact hs

theorem Performed.lfc_wf {i : Instr} {p : Pending} {s t : State} (h : Performed i p s t) (hr : 0 < s.cfg.rL)
    (hwf : ∀ n, (s.lfc.get n).st.wf s.cfg = true) : ∀ n, (t.lfc.get n).st.wf s.cfg = true :=
  h.lfc_keep (Q := fun _ x => x.st.wf s.cfg = true) (fun _ _ _ _ => lfcConstruct_wf hr) (fun _ k _ => lfcFwdN_wf k)
    (fun _ _ _ _ => lfcBack_wf) hwf

theorem Performed.phx_wf {i : Instr} {p : Pending} {s t : State} (h : Performed i p s t) (hc : s.cfg.wf = true)
    (hwf : ∀ n, (s.phx.get n).st.wf s.cfg = true) : ∀ n, (t.phx.get n).st.wf s.cfg = true :=
  h.phx_keep (Q := fun _ x => x.st.wf s.cfg = true) (fun _ => phxSeedInt_wf hc) (fun _ => phxSeedSeq_wf hc)
    (fun _ v k _ => phxNextN_wf hc v k) hwf

/-- R40: no perform but SEEDQ.FLUSH touches the FIFO. -/
theorem Performed.seedq_eq {i : Instr} {p : Pending} {s t : State} (h : Performed i p s t) (hi : i ≠ .seedqFlush) :
    t.seedq = s.seedq := by
  cases h
  case flush => exact absurd rfl hi
  all_goals rfl

theorem Performed.seedq_length_le {i : Instr} {p : Pending} {s t : State} (h : Performed i p s t) :
    t.seedq.length ≤ s.seedq.length := by
  by_cases hi : i = .seedqFlush
  · subst hi
    cases h
    · exact Nat.zero_le _
    next hr _ => cases hr
  · rw [h.seedq_eq hi]

/-! ## The invariant -/

/-- The checks of R109 read nothing but the configuration and the engines. -/
theorem issueCheck_congr {s t : State} (i : Instr) (b : U128) (hcfg : t.cfg = s.cfg) (hlfc : t.lfc = s.lfc)
    (hphx : t.phx = s.phx) : issueCheck i b t = issueCheck i b s := by
  cases i <;> simp only [issueCheck, hcfg, hlfc, hphx]

/-- The invariant of a state whose configuration and engines are those of a state that meets it. -/
theorem State.Inv.of_engines {s t : State} (h : s.Inv) (hcfg : t.cfg = s.cfg) (hlfc : t.lfc = s.lfc)
    (hphx : t.phx = s.phx) (hseedq : t.seedq.length ≤ s.cfg.seedqDepth) (herr : t.errorRecordOk = true)
    (hpend : t.pendingOk = true) (hvars : varsOk t.host.vars = true) : t.Inv := by
  obtain ⟨hwf, hl, hp, -⟩ := h
  exact ⟨by rwa [hcfg], by rwa [hcfg, hlfc], by rwa [hcfg, hphx], by rwa [hcfg], herr, hpend, hvars⟩

/-- The same where the latch stays too: its conditions depend on nothing else (`State.pendingOk_congr`). -/
theorem State.Inv.frame {s t : State} (h : s.Inv) (hcfg : t.cfg = s.cfg) (hlfc : t.lfc = s.lfc)
    (hphx : t.phx = s.phx) (hpend : t.pend = s.pend) (hseedq : t.seedq.length ≤ s.cfg.seedqDepth)
    (herr : t.errorRecordOk = true) (hvars : varsOk t.host.vars = true) : t.Inv := by
  have ⟨_, _, _, _, _, hpendOk, _⟩ := h
  exact h.of_engines hcfg hlfc hphx hseedq herr ((State.pendingOk_congr hpend hcfg hlfc hphx).trans hpendOk) hvars

theorem State.Inv.raise {s : State} (h : s.Inv) (e : ErrCode) : (s.raise e).Inv := by
  have ⟨_, _, _, hseedq, herr, _, hvars⟩ := h
  exact h.frame (by simp) (by simp) (by simp) (by simp) (by simpa using hseedq) (State.raise_errorRecordOk e herr)
    (by simpa using hvars)

/-- An issue that goes through latches a command that meets its checks, with exactly the words it takes (R107). -/
theorem State.Inv.issue {s : State} (h : s.Inv) (i : Instr) : (s.issue i).Inv := by
  rcases s.issue_cases i with ⟨e, -, heq⟩ | ⟨-, -, heq⟩ | ⟨hcheck, hwords, heq⟩ <;> rw [heq]
  · exact h.raise e
  · exact h.raise _
  · have ⟨_, _, _, hseedq, herr, _, hvars⟩ := h
    refine h.of_engines rfl rfl rfl ?_ herr ?_ hvars
    · simp only [State.setPend_seedq, State.setSeedq_seedq, List.length_drop]
      omega
    · have hcheck' : ∀ q l, issueCheck i s.opB ((s.setSeedq q).setPend l) = none :=
        fun q l => (issueCheck_congr i _ rfl rfl rfl).trans hcheck
      simp [State.pendingOk, performable, hcheck', hwords]

theorem State.Inv.performed {i : Instr} {p : Pending} {s t : State} (h : s.Inv) (hp : Performed i p s t) : t.Inv := by
  obtain ⟨hwf, hlfc, hphx, hseedq, herr, -, hvars⟩ := h
  have hr : 0 < s.cfg.rL := by
    obtain ⟨-, hlags, -⟩ := Config.wf_iff.mp hwf
    omega
  have hl := hp.lfc_wf hr hlfc
  have hx := hp.phx_wf hwf hphx
  have hq := hp.seedq_length_le
  rw [hp.frame]
  exact ⟨hwf, hl, hx, hq.trans hseedq, herr, rfl, hvars⟩

theorem resetOf_inv {c : Config} (hc : c.wf = true) : (State.resetOf c).Inv := by
  have hr : 0 < c.rL := by
    obtain ⟨-, hlags, -⟩ := Config.wf_iff.mp hc
    omega
  refine ⟨hc, fun n => ?_, fun n => ?_, Nat.zero_le _, rfl, rfl, rfl⟩
  · cases n <;> exact LfcInst.reset_wf hr
  · cases n <;> exact PhxInst.reset_wf hc

theorem State.Inv.resetBlock {s : State} (h : s.Inv) : s.resetBlock.Inv := by
  obtain ⟨hwf, -, -, -, -, -, hvars⟩ := h
  exact (resetOf_inv hwf).of_engines rfl rfl rfl (Nat.zero_le _) rfl rfl hvars

theorem Move.inv {s t : State} (hm : Move s t) (h : s.Inv) : t.Inv := by
  have ⟨_, _, _, hseedq, herr, _, hvars⟩ := h
  cases hm with
  | turns ts => exact h.frame rfl rfl rfl rfl hseedq herr hvars
  | host agent hagent => exact h.frame rfl rfl rfl rfl hseedq herr (hagent hvars)
  | freeCtr k => exact h.frame rfl rfl rfl rfl hseedq herr hvars
  | args a0 a1 b0 b1 => exact h.frame rfl rfl rfl rfl hseedq herr hvars
  | raise e => exact h.raise e
  | clearError => exact h.frame rfl rfl rfl rfl hseedq rfl hvars
  | push w hroom => exact h.frame rfl rfl rfl rfl (by simpa using hroom) herr hvars
  | issue i hidle => exact h.issue i
  | perform p hp hperf hdone => exact h.performed hdone

/-- Settles O25: every move and reset keep the invariant. -/
theorem stepKeepsInvariant : Obligations.StepKeepsInvariant := fun _ _ hs h =>
  step_keeps Move.inv (fun _ => State.Inv.resetBlock) h hs

/-- Settles O24: the reset values are words in range and nothing is pending. -/
theorem resetMeetsInvariant : Obligations.ResetMeetsInvariant :=
  ⟨fun _ => resetOf_inv, resetOf_inv (by decide)⟩

/-! ## The PHX cache -/

/-- The rule of R48 for every seeded PHX unit. -/
def State.CachesValid (s : State) : Prop :=
  ∀ n, (s.phx.get n).seeded = true → (s.phx.get n).st.cacheValid s.cfg

theorem State.CachesValid.congr {s t : State} (h : s.CachesValid) (hcfg : t.cfg = s.cfg) (hphx : t.phx = s.phx) :
    t.CachesValid := by
  unfold State.CachesValid
  rwa [hcfg, hphx]

theorem Performed.cachesValid {i : Instr} {p : Pending} {s t : State} (hp : Performed i p s t) (hs : s.Inv)
    (h : s.CachesValid) : t.CachesValid := by
  obtain ⟨hwf, -, hphx, -⟩ := hs
  have hcfg : t.cfg = s.cfg := by rw [hp.frame]
  have hkeep := hp.phx_keep (Q := fun _ x => x.st.wf s.cfg = true ∧ (x.seeded = true → x.st.cacheValid s.cfg))
    (fun _ sd => ⟨phxSeedInt_wf hwf sd, fun _ => phxSeeded_cacheValid _⟩)
    (fun _ z => ⟨phxSeedSeq_wf hwf z, fun _ => phxSeeded_cacheValid _⟩)
    (fun _ v k _ ⟨hx, hcache⟩ =>
      ⟨phxNextN_wf hwf v k hx, fun hseeded => phxNextN_cacheValid hwf v k hx (hcache hseeded)⟩)
    (fun n => ⟨hphx n, h n⟩)
  unfold State.CachesValid
  rw [hcfg]
  exact fun n => (hkeep n).2

theorem Move.cachesValid {s t : State} (hm : Move s t) (hs : s.Inv) (h : s.CachesValid) : t.CachesValid := by
  cases hm with
  | raise e => exact h.congr (by simp) (by simp)
  | issue i hidle => exact h.congr (by simp) (by simp)
  | perform p hp hperf hdone => exact hdone.cachesValid hs h
  | _ => exact h

/-- After reset no PHX unit is seeded (R55). -/
theorem State.resetBlock_cachesValid (s : State) : s.resetBlock.CachesValid := by
  intro n hseeded
  cases n <;> cases hseeded

/-- Settles O27: every move and reset keep the invariant together with the rule of the cache. -/
theorem stepKeepsPhxCache : Obligations.StepKeepsPhxCache := fun _ _ hs hcaches h =>
  (step_keeps (P := fun u => u.Inv ∧ u.CachesValid) (fun hm hu => ⟨hm.inv hu.1, hm.cachesValid hu.1 hu.2⟩)
    (fun u hu => ⟨hu.1.resetBlock, u.resetBlock_cachesValid⟩) h ⟨hs, hcaches⟩).2

end Sys2Proof.Machine
end

section
/-! PROOFS. Commands and state (10_state.md R33, R34, R40, R43, R44, R50, R51, R57): the frame of a command, the engines
it does not name, the seeded flags and the configuration. -/

namespace Sys2Proof.Machine

/-! ## The frame of a command -/

/-- What no command writes, at issue or at perform: ARG, the configuration, the host, the schedule and the count of
free values. -/
theorem exec_frame {i : Instr} {s t : State} (h : exec i s = .next t) :
    t = { s with
      resLo := t.resLo, resHi := t.resHi, err := t.err, eovf := t.eovf, ecode := t.ecode
      pend := t.pend, seedq := t.seedq, lfc := t.lfc, phx := t.phx } := by
  obtain ⟨-, rfl⟩ | ⟨p, -, -, hp⟩ := exec_next h
  · simpa using s.issue_frame i
  · cases hp <;> rfl

/-- R108: an issue takes words from the FIFO for a SEEDSEQ only. -/
theorem State.issue_seedq_of_no_words {s : State} {i : Instr} (h : wordsNeeded s.cfg i = 0) :
    (s.issue i).seedq = s.seedq := by
  rcases s.issue_cases i with ⟨e, -, heq⟩ | ⟨-, -, heq⟩ | ⟨-, -, heq⟩ <;> simp [heq, h]

theorem wordsNeeded_eq_zero (c : Config) {i : Instr} (hlfc : ∀ n v, i ≠ .lfcSeedseq n v)
    (hphx : ∀ n, i ≠ .phxSeedseq n) : wordsNeeded c i = 0 := by
  cases i
  case lfcSeedseq n v => exact absurd rfl (hlfc n v)
  case phxSeedseq n => exact absurd rfl (hphx n)
  all_goals rfl

/-- Settles O18: the frame of `exec` gives the fields no command writes, the split into issue and perform the others. -/
theorem commandFrame : Obligations.CommandFrame := by
  intro i s t h
  have hframe := exec_frame h
  refine ⟨(congrArg State.arg0Lo hframe :), (congrArg State.arg0Hi hframe :), (congrArg State.arg1Lo hframe :),
    (congrArg State.arg1Hi hframe :), (congrArg State.cfg hframe :), (congrArg State.host hframe :),
    (congrArg State.turns hframe :), (congrArg State.freeCtr hframe :), ?_⟩
  obtain ⟨hidle, rfl⟩ | ⟨p, hpend, -, hp⟩ := exec_next h
  · exact ⟨fun _ => ⟨by simp, by simp, by simp, by simp⟩, fun hbusy => absurd hidle hbusy,
      fun _ hlfc hphx => State.issue_seedq_of_no_words (wordsNeeded_eq_zero s.cfg hlfc hphx)⟩
  · have hbusy : s.pend ≠ none := by simp [hpend]
    exact ⟨fun hidle => absurd hidle hbusy, fun _ => hp.seedq_eq, fun hidle => absurd hidle hbusy⟩

/-! ## Engines that a command does not name (R50) -/

theorem Pair.set_comm {α : Type} (p : Pair α) {n m : Inst} (h : n ≠ m) (a b : α) :
    (p.set n a).set m b = (p.set m b).set n a := by
  cases n <;> cases m
  case i0.i0 => exact absurd rfl h
  case i1.i1 => exact absurd rfl h
  all_goals rfl

@[simp] theorem Pair.set_get_self {α : Type} (p : Pair α) (n : Inst) : p.set n (p.get n) = p := by cases n <;> rfl

/-- An update of a pair that leaves one of its two and what is put there alone. -/
def Avoids {α : Type} (g : Pair α → Pair α) (m : Inst) : Prop :=
  ∀ q : Pair α, (g q).get m = q.get m ∧ ∀ a, g (q.set m a) = (g q).set m a

theorem avoids_id {α : Type} (m : Inst) : Avoids (id : Pair α → Pair α) m := fun _ => ⟨rfl, fun _ => rfl⟩

theorem avoids_set {α : Type} {n m : Inst} (h : m ≠ n) (a : α) : Avoids (fun q => q.set n a) m :=
  fun q => ⟨Pair.get_set_other q h a, fun b => Pair.set_comm q h b a⟩

/-- The state with its engines updated. -/
def State.mapEngines (gL : Pair LfcInst → Pair LfcInst) (gX : Pair PhxInst → Pair PhxInst) (s : State) : State :=
  { s with lfc := gL s.lfc, phx := gX s.phx }

section MapEngines

variable {gL : Pair LfcInst → Pair LfcInst} {gX : Pair PhxInst → Pair PhxInst}

theorem State.mapEngines_raise (s : State) (e : ErrCode) :
    (s.mapEngines gL gX).raise e = (s.raise e).mapEngines gL gX := by
  unfold State.raise State.mapEngines
  split <;> rfl

theorem State.mapEngines_setLfc {m : Inst} (hm : Avoids gL m) (s : State) (a : LfcInst) :
    (s.mapEngines gL gX).setLfc m a = (s.setLfc m a).mapEngines gL gX := by
  simp [State.mapEngines, State.setLfc, (hm s.lfc).2]

theorem State.mapEngines_setPhx {m : Inst} (hm : Avoids gX m) (s : State) (a : PhxInst) :
    (s.mapEngines gL gX).setPhx m a = (s.setPhx m a).mapEngines gL gX := by
  simp [State.mapEngines, State.setPhx, (hm s.phx).2]

theorem State.mapEngines_stepLfc {m : Inst} (hm : Avoids gL m) (s : State) (st : LfcState) :
    (s.mapEngines gL gX).stepLfc m st = (s.stepLfc m st).mapEngines gL gX := by
  unfold State.stepLfc
  rw [State.mapEngines_setLfc hm, show (s.mapEngines gL gX).lfc.get m = s.lfc.get m from (hm s.lfc).1]

theorem State.mapEngines_stepPhx {m : Inst} (hm : Avoids gX m) (s : State) (st : PhxState) :
    (s.mapEngines gL gX).stepPhx m st = (s.stepPhx m st).mapEngines gL gX := by
  unfold State.stepPhx
  rw [State.mapEngines_setPhx hm, show (s.mapEngines gL gX).phx.get m = s.phx.get m from (hm s.phx).1]

variable {i : Instr} (hL : ∀ m, namesLfc i m = true → Avoids gL m) (hX : ∀ m, namesPhx i m = true → Avoids gX m)
include hL hX

theorem issueCheck_mapEngines (b : U128) (s : State) : issueCheck i b (s.mapEngines gL gX) = issueCheck i b s := by
  have hl : ∀ m, namesLfc i m = true → (gL s.lfc).get m = s.lfc.get m := fun m hm => (hL m hm s.lfc).1
  have hx : ∀ m, namesPhx i m = true → (gX s.phx).get m = s.phx.get m := fun m hm => (hX m hm s.phx).1
  cases i
  case lfcNext n => simp [issueCheck, State.mapEngines, hl n (beq_self_eq_true n)]
  case lfcBack n => simp [issueCheck, State.mapEngines, hl n (beq_self_eq_true n)]
  case lfcDiscard n => simp [issueCheck, State.mapEngines, hl n (beq_self_eq_true n)]
  case lfcEq => simp [issueCheck, State.mapEngines, ← Pair.get_i0, ← Pair.get_i1, hl .i0 rfl, hl .i1 rfl]
  case phxNext n v => simp [issueCheck, State.mapEngines, hx n (beq_self_eq_true n)]
  case phxDiscard n v => simp [issueCheck, State.mapEngines, hx n (beq_self_eq_true n)]
  case phxEq => simp [issueCheck, State.mapEngines, ← Pair.get_i0, ← Pair.get_i1, hx .i0 rfl, hx .i1 rfl]
  all_goals rfl

theorem State.mapEngines_issue (s : State) : (s.mapEngines gL gX).issue i = (s.issue i).mapEngines gL gX := by
  have hopB : (s.mapEngines gL gX).opB = s.opB := rfl
  have hcfg : (s.mapEngines gL gX).cfg = s.cfg := rfl
  have hseedq : (s.mapEngines gL gX).seedq = s.seedq := rfl
  unfold State.issue
  rw [hopB, hcfg, hseedq, issueCheck_mapEngines hL hX]
  cases issueCheck i s.opB s with
  | some e => exact s.mapEngines_raise e
  | none =>
    cases seedWords (wordsNeeded s.cfg i) s.seedq with
    | none => exact s.mapEngines_raise _
    | some taken => rfl

theorem performable_mapEngines {p : Pending} {s : State} (h : performable i p s = true) :
    performable i p (s.mapEngines gL gX) = true := by
  rw [performable_iff] at h ⊢
  rwa [issueCheck_mapEngines hL hX]

/-- The commands that only write RES compute it from the latch, the configuration and, to compare, the engines they
name. -/
theorem exec_mapEngines_of_result {s : State} {p : Pending} {r : U128} (hr : leavesRes i = false) (hi : i.inst? = none)
    (hp : s.pend = some p) (hperf : performable i p s = true) (h : exec i s = .next (s.setRes r).complete) :
    exec i (s.mapEngines gL gX) = .next ((s.setRes r).complete.mapEngines gL gX) := by
  have hp' : (s.mapEngines gL gX).pend = some p := hp
  have hperf' := performable_mapEngines hL hX hperf
  have hl : ∀ m, namesLfc i m = true → (s.mapEngines gL gX).lfc.get m = s.lfc.get m := fun m hm => (hL m hm s.lfc).1
  have hx : ∀ m, namesPhx i m = true → (s.mapEngines gL gX).phx.get m = s.phx.get m := fun m hm => (hX m hm s.phx).1
  cases i
  case nop | seedqFlush | lfcSeed | lfcSeedseq | lfcDiscard | phxSeed | phxSeedseq | phxDiscard => cases hr
  case lfcNext | lfcBack | phxNext => cases hi
  case lfcEq =>
    rw [exec_lfcEq_pending hp hperf] at h
    rw [exec_lfcEq_pending hp' hperf', ← Pair.get_i0, ← Pair.get_i1, hl .i0 rfl, hl .i1 rfl,
      ← Host.Outcome.next.inj h]
    rfl
  case phxEq =>
    rw [exec_phxEq_pending hp hperf] at h
    rw [exec_phxEq_pending hp' hperf', ← Pair.get_i0, ← Pair.get_i1, hx .i0 rfl, hx .i1 rfl,
      ← Host.Outcome.next.inj h]
    rfl
  all_goals
    simp only [exec, execLfcMin, execLfcMax, execPhxMin, execPhxMax, execPhxMulhilo, execU128Add, execU128Sub,
      execU128Shl, execU128Shr, execU128Mul, execU128Mod, execU128Le, execU128Ge, command_pending _ hp hperf,
      command_pending _ hp' hperf'] at h ⊢
    rw [← Host.Outcome.next.inj h]
    rfl

/-- R50: an update of the engines that avoids those a command names goes through the command unseen. -/
theorem exec_mapEngines {s t : State} (h : exec i s = .next t) :
    exec i (s.mapEngines gL gX) = .next (t.mapEngines gL gX) := by
  have hpend : (s.mapEngines gL gX).pend = s.pend := rfl
  obtain ⟨hidle, rfl⟩ | ⟨p, hp, hperf, hdone⟩ := exec_next h
  · rw [exec_idle i (hpend.trans hidle), State.mapEngines_issue hL hX]
  have hp' := hpend.trans hp
  have hperf' := performable_mapEngines hL hX hperf
  have hl : ∀ m, namesLfc i m = true → (s.mapEngines gL gX).lfc.get m = s.lfc.get m := fun m hm => (hL m hm s.lfc).1
  have hx : ∀ m, namesPhx i m = true → (s.mapEngines gL gX).phx.get m = s.phx.get m := fun m hm => (hX m hm s.phx).1
  have hcfg : (s.mapEngines gL gX).cfg = s.cfg := rfl
  cases hdone
  case nop => exact exec_nop_pending hp' hperf'
  case flush => exact exec_seedqFlush_pending hp' hperf'
  case lfcSeed n v st hst =>
    rw [exec_lfcSeed_pending hp' hperf', hcfg, hst, seedLfc_some, State.mapEngines_setLfc (hL n (beq_self_eq_true n))]
    rfl
  case lfcSeedseq n v st hst =>
    rw [exec_lfcSeedseq_pending hp' hperf', hcfg, hst, seedLfc_some,
      State.mapEngines_setLfc (hL n (beq_self_eq_true n))]
    rfl
  case lfcNext n =>
    rw [exec_lfcNext_pending hp' hperf', hcfg, hl n (beq_self_eq_true n),
      State.mapEngines_stepLfc (hL n (beq_self_eq_true n))]
    rfl
  case lfcBack n y st hst =>
    rw [← hcfg, ← hl n (beq_self_eq_true n)] at hst
    rw [exec_lfcBack_pending hp' hperf' hst, State.mapEngines_stepLfc (hL n (beq_self_eq_true n))]
    rfl
  case lfcDiscard n =>
    rw [exec_lfcDiscard_pending hp' hperf', hcfg, hl n (beq_self_eq_true n),
      State.mapEngines_stepLfc (hL n (beq_self_eq_true n))]
    rfl
  case phxSeed n =>
    rw [exec_phxSeed_pending hp' hperf', State.mapEngines_setPhx (hX n (beq_self_eq_true n))]
    rfl
  case phxSeedseq n =>
    rw [exec_phxSeedseq_pending hp' hperf', State.mapEngines_setPhx (hX n (beq_self_eq_true n))]
    rfl
  case phxNext n v =>
    rw [exec_phxNext_pending hp' hperf', hcfg, hx n (beq_self_eq_true n),
      State.mapEngines_stepPhx (hX n (beq_self_eq_true n))]
    rfl
  case phxDiscard n v =>
    rw [exec_phxDiscard_pending hp' hperf', hcfg, hx n (beq_self_eq_true n),
      State.mapEngines_stepPhx (hX n (beq_self_eq_true n))]
    rfl
  case result r hr hi => exact exec_mapEngines_of_result hL hX hr hi hp hperf h

end MapEngines

/-- Settles O20: the two updates are the ones that set the engine the command does not name; that the engine is
unchanged is the case in which it is set to what it holds. -/
theorem instancesIndependent : Obligations.InstancesIndependent := by
  intro i s t n h
  constructor
  · intro hn
    have hset (a : LfcInst) : exec i (s.setLfc n a) = .next (t.setLfc n a) :=
      exec_mapEngines (gL := fun q => q.set n a) (gX := id)
        (fun m hm => avoids_set (fun hmn => by simp [← hmn, hm] at hn) a) (fun m _ => avoids_id m) h
    refine ⟨?_, hset⟩
    have hsame := hset (s.lfc.get n)
    rw [State.setLfc, Pair.set_get_self, h] at hsame
    simpa using congrArg (fun u => u.lfc.get n) (Host.Outcome.next.inj hsame)
  · intro hn
    have hset (a : PhxInst) : exec i (s.setPhx n a) = .next (t.setPhx n a) :=
      exec_mapEngines (gL := id) (gX := fun q => q.set n a)
        (fun m _ => avoids_id m) (fun m hm => avoids_set (fun hmn => by simp [← hmn, hm] at hn) a) h
    refine ⟨?_, hset⟩
    have hsame := hset (s.phx.get n)
    rw [State.setPhx, Pair.set_get_self, h] at hsame
    simpa using congrArg (fun u => u.phx.get n) (Host.Outcome.next.inj hsame)

/-! ## Seeded flags (R51) -/

theorem Performed.keeps_seeded {i : Instr} {p : Pending} {s t : State} (h : Performed i p s t) (n : Inst) :
    ((s.lfc.get n).seeded = true → (t.lfc.get n).seeded = true) ∧
    ((s.phx.get n).seeded = true → (t.phx.get n).seeded = true) :=
  ⟨h.lfc_keep (Q := fun m x => (s.lfc.get m).seeded = true → x.seeded = true)
      (fun _ _ _ _ _ _ => rfl) (fun _ _ _ => id) (fun _ _ _ _ hx _ => hx) (fun _ => id) n,
    h.phx_keep (Q := fun m x => (s.phx.get m).seeded = true → x.seeded = true)
      (fun _ _ _ => rfl) (fun _ _ _ => rfl) (fun _ _ _ _ => id) (fun _ => id) n⟩

theorem Move.keeps_seeded {s t : State} (hm : Move s t) (n : Inst) :
    ((s.lfc.get n).seeded = true → (t.lfc.get n).seeded = true) ∧
    ((s.phx.get n).seeded = true → (t.phx.get n).seeded = true) := by
  cases hm with
  | raise e => simp
  | issue i hidle => simp
  | perform p hp hperf hdone => exact hdone.keeps_seeded n
  | _ => exact ⟨id, id⟩

theorem Performed.lfc_seeded {i : Instr} {p : Pending} {s t : State} (h : Performed i p s t) {n : Inst} {v : Variant}
    (hi : i = .lfcSeed n v ∨ i = .lfcSeedseq n v) : (t.lfc.get n).seeded = true := by
  rcases hi with rfl | rfl <;> cases h
  case inl.lfcSeed => simp
  case inr.lfcSeedseq => simp
  all_goals next hr _ => cases hr

theorem Performed.phx_seeded {i : Instr} {p : Pending} {s t : State} (h : Performed i p s t) {n : Inst}
    (hi : i = .phxSeed n ∨ i = .phxSeedseq n) : (t.phx.get n).seeded = true := by
  rcases hi with rfl | rfl <;> cases h
  case inl.phxSeed => simp
  case inr.phxSeedseq => simp
  all_goals next hr _ => cases hr

/-- Settles O21: every move keeps a set flag, and a perform of a seed command sets it. -/
theorem seededFlags : Obligations.SeededFlags := by
  constructor
  · intro s t n h hturn
    obtain ⟨-, ⟨hreset, -⟩ | hmoves⟩ := step_cases h
    · exact absurd hreset hturn
    · exact hmoves.keep
        (P := fun u => ((s.lfc.get n).seeded = true → (u.lfc.get n).seeded = true) ∧
          ((s.phx.get n).seeded = true → (u.phx.get n).seeded = true))
        (fun hm hu => ⟨(hm.keeps_seeded n).1 ∘ hu.1, (hm.keeps_seeded n).2 ∘ hu.2⟩) ⟨id, id⟩
  · intro s t p n v hp
    constructor
    · rintro (h | h)
      · exact (exec_performed hp h).2.lfc_seeded (.inl rfl)
      · exact (exec_performed hp h).2.lfc_seeded (.inr rfl)
    · rintro (h | h)
      · exact (exec_performed hp h).2.phx_seeded (.inl rfl)
      · exact (exec_performed hp h).2.phx_seeded (.inr rfl)

/-! ## The configuration (R43, R44, R57) -/

theorem Move.cfg_eq {s t : State} (hm : Move s t) : t.cfg = s.cfg := by
  cases hm with
  | raise e => simp
  | issue i hidle => simp
  | perform p hp hperf hdone => rw [hdone.frame]
  | _ => rfl

theorem step_cfg {s t : State} (h : step s = .next t) : t.cfg = s.cfg :=
  step_keeps (P := fun u => u.cfg = s.cfg) (fun hm hu => hm.cfg_eq.trans hu) (fun _ hu => hu) h rfl

/-- R43: a register at 0x080 or above is a view of the configuration. -/
theorem readReg_cfg_congr {s t : State} (hcfg : t.cfg = s.cfg) {r : Reg} (hr : 0x080 ≤ r.offset) :
    readReg t r = readReg s r := by
  cases r
  case cmd | status | arg0Lo | arg0Hi | arg1Lo | arg1Hi | resLo | resHi | seedq | seedqCount | seeded =>
    exact absurd hr (by decide)
  all_goals simp only [readReg, hcfg]

/-- Settles O17: no step changes the configuration, of which these registers are views; and in a legal configuration
every entry of R44's table fits its 64 bits. -/
theorem cfgRegisters : Obligations.CfgRegisters := by
  refine ⟨fun s t h => ⟨step_cfg h, fun r => readReg_cfg_congr (step_cfg h)⟩, fun s hwf hrL hrP => ?_⟩
  have hfit : ∀ {v : Nat}, v < 2 ^ 64 → (BitVec.ofNat 64 v).toNat = v := fun hv => by
    rw [BitVec.toNat_ofNat, Nat.mod_eq_of_lt hv]
  obtain ⟨⟨-, hwL⟩, ⟨-, hsL⟩, ⟨-, hwP⟩, hnP, -, ⟨-, hconsts⟩, -⟩ := Config.wf_iff.mp hwf
  have hlfcSeedN : s.cfg.rL * (s.cfg.wL / 32 + 1) < 2 ^ 64 := by
    have : s.cfg.rL * (s.cfg.wL / 32 + 1) ≤ s.cfg.rL * 3 := Nat.mul_le_mul_left _ (by omega)
    omega
  have hphxSeedN : s.cfg.nP / 2 * ((s.cfg.wP - 1) / 32 + 1) < 2 ^ 64 := by
    have : s.cfg.nP / 2 * ((s.cfg.wP - 1) / 32 + 1) ≤ 2 * 2 := Nat.mul_le_mul (by omega) (by omega)
    omega
  have hconst : ∀ k, s.cfg.constP.getD k 0 < 2 ^ 64 := fun k =>
    (getD_lt (by positivity) hconsts k).trans_le (Nat.pow_le_pow_right (by omega) hwP)
  have hoptional : ∀ k, (if s.cfg.nP = 4 then BitVec.ofNat 64 (s.cfg.constP.getD k 0) else 0).toNat =
      if s.cfg.nP = 4 then s.cfg.constP.getD k 0 else 0 := fun k => by
    split
    · exact hfit (hconst k)
    · rfl
  simp only [List.map_cons, List.map_nil, Reg.offset, readReg, Config.lfcSeedN, Config.phxSeedN, Config.seedqDepth,
    Config.kL, Config.kP, hoptional, hfit (hconst 0), hfit (hconst 1), hfit hlfcSeedN, hfit hphxSeedN, hfit hrP,
    hfit (Nat.max_lt.mpr ⟨hlfcSeedN, hphxSeedN⟩), hfit (by omega : s.cfg.wL < 2 ^ 64),
    hfit (by omega : s.cfg.sL < 2 ^ 64), hfit (by omega : s.cfg.rL < 2 ^ 64), hfit (by omega : s.cfg.wP < 2 ^ 64),
    hfit (by omega : s.cfg.nP < 2 ^ 64)]
  rfl

end Sys2Proof.Machine
end

section
/-! PROOFS. The schedule and the writable registers (10_state.md R30, R33, R35, R36, R38): whose turn it is, and what a
bus access to CMD, STATUS, ARG and SEEDQ does. -/

namespace Sys2Proof.Machine

/-! ## Turns -/

theorem step_of_wf {s : State} (h : s.cfg.wf = true) : step s = runTurn (s.setTurns s.nextTurn.2) s.nextTurn.1 :=
  if_pos h

/-- A scheduled turn is taken, and the rest of the schedule stays. -/
theorem step_scheduled {s : State} {turn : Turn} {ts : List Turn} (hwf : s.cfg.wf = true) (h : s.turns = turn :: ts) :
    step s = runTurn (s.setTurns ts) turn := by
  have hnext : s.nextTurn = (turn, ts) := by unfold State.nextTurn; rw [h]
  rw [step_of_wf hwf, hnext]

/-- A used-up schedule stays used up, and who moves follows from the state (log entry 2). -/
theorem step_unscheduled {s : State} (hwf : s.cfg.wf = true) (h : s.turns = []) :
    step s = runTurn s (if s.busy then .block else if s.host.stalls then .idle else .host) := by
  have hnext : s.nextTurn = (if s.busy then .block else if s.host.stalls then .idle else .host, []) := by
    unfold State.nextTurn
    rw [h]
  have hstay : s.setTurns [] = s := h ▸ rfl
  rw [step_of_wf hwf, hnext, hstay]

theorem blockStep_pending {s : State} {p : Pending} (hp : s.pend = some p) : blockStep s = exec p.cmd s := by
  unfold blockStep
  rw [hp]

/-- Settles O4: whose turn it is, scheduled or not, decides the step. -/
theorem stepPerformsPending : Obligations.StepPerformsPending := by
  refine ⟨fun s p hwf hp => ⟨fun ts hts => ?_, fun hts => ?_⟩, fun s hwf hts hidle hstalls => ?_⟩
  · rw [step_scheduled hwf hts]
    exact blockStep_pending hp
  · rw [step_unscheduled hwf hts, if_pos (by simp [State.busy, hp])]
    exact blockStep_pending hp
  · rw [step_unscheduled hwf hts, if_neg (by simp [State.busy, hidle]), if_pos hstalls]
    rfl

/-! ## CMD (R35) -/

/-- Eight bytes written at BASE are a word written to CMD. -/
theorem busWrite_cmd (s : State) {data : List Byte} (h : data.length = 8) :
    busWrite s s.cfg.base data = writeCmd s (BitVec.ofNat 64 (leNat data)) := by
  have hwindow : inWindow s.cfg s.cfg.base = true := inWindow_iff.mpr (by omega)
  unfold busWrite
  rw [if_pos hwindow, Nat.sub_self, h]
  rfl

theorem decode_of_decodeBytes {data : List Byte} {i : Instr} (h : decodeBytes data = some i) :
    decode (BitVec.ofNat 64 (leNat data)) = .ok i := by
  unfold decodeBytes at h
  split at h
  · split at h
    next j hj => rw [hj, Option.some.inj h]
    · cases h
  · cases h

/-- R107: a legal word written while no command is pending is its command's issue. -/
theorem writeCmd_of_decode {s : State} {w : Word} {i : Instr} (hidle : s.pend = none) (h : decode w = .ok i) :
    writeCmd s w = exec i s := by
  unfold writeCmd
  rw [if_neg (by simp [State.busy, hidle]), h]

/-- Settles O5: the host's turn is its write to CMD, which is the issue of the decoded command. -/
theorem stepIssuesWrittenWord : Obligations.StepIssuesWrittenWord := by
  intro s v i ts hwf hidle hts hop hdecode
  have hhost : runTurn (s.setTurns ts) .host = hostOp (s.setTurns ts) (.memWrite s.cfg.base 8 (.lit v)) := by
    simp only [runTurn, hostStep, State.setTurns_host, hop]
  rw [step_scheduled hwf hts, hhost]
  exact (busWrite_cmd ((s.setTurns ts).setHost s.host.advance) (leBytes_length 8 v)).trans
    (writeCmd_of_decode hidle (decode_of_decodeBytes hdecode))

/-! ## STATUS (R36) -/

/-- The fields of STATUS do not overlap, so the word is their sum. -/
theorem State.statusWord_toNat (s : State) :
    s.statusWord.toNat = s.busy.toNat + 2 * s.err.toNat + 4 * s.eovf.toNat + 256 * s.ecode.toNat := by
  have := s.busy.toNat_le
  have := s.err.toNat_le
  have := s.eovf.toNat_le
  have := s.ecode.isLt
  rw [State.statusWord, BitVec.toNat_ofNat, Nat.mod_eq_of_lt (by omega)]

theorem State.busy_toNat (s : State) : s.busy.toNat = if s.pend = none then 0 else 1 := by
  cases h : s.pend <;> simp [State.busy, h]

/-- Settles O11: a legal access to STATUS reads `State.statusWord` and writes by `writeStatus`. -/
theorem statusRegister : Obligations.StatusRegister := by
  refine ⟨fun s _ => ?_, fun s v _ => ?_, fun c => rfl⟩
  · have hread : busRead s (s.cfg.base + 0x008) 8 = (leBytes 8 s.statusWord.toNat, s) :=
      busRead_reg s (r := .status) rfl
    rw [hread]
    refine ⟨rfl, ?_⟩
    rw [leNat_leBytes_word, State.statusWord_toNat, State.busy_toNat, show (2 ^ 8 : Nat) = 256 from rfl]
  · have hwrite : busWrite s (s.cfg.base + 0x008) (leBytes 8 v.toNat) = .next (writeStatus s v) :=
      busWrite_reg s (r := .status) v rfl
    rw [hwrite]
    rfl

/-! ## ARG (R33) -/

/-- Settles O14: each offset names its own register. -/
theorem argRegisters : Obligations.ArgRegisters :=
  ⟨fun s v => ⟨busWrite_reg s (r := .arg0Lo) v rfl, busWrite_reg s (r := .arg0Hi) v rfl,
      busWrite_reg s (r := .arg1Lo) v rfl, busWrite_reg s (r := .arg1Hi) v rfl⟩,
    fun s => ⟨busRead_reg s (r := .arg0Lo) rfl, busRead_reg s (r := .arg0Hi) rfl,
      busRead_reg s (r := .arg1Lo) rfl, busRead_reg s (r := .arg1Hi) rfl⟩,
    fun _ => ⟨rfl, rfl, rfl, rfl⟩⟩

/-! ## SEEDQ (R38) -/

theorem State.pushSeed_room {s : State} (w : SeedWord) (h : s.seedq.length < s.cfg.seedqDepth) :
    s.pushSeed w = s.setSeedq (s.seedq ++ [w]) := if_pos h

theorem State.pushSeed_full {s : State} (w : SeedWord) (h : s.cfg.seedqDepth ≤ s.seedq.length) :
    s.pushSeed w = s.raise .seedqOverflow := if_neg (Nat.not_lt.mpr h)

theorem busWrite_seedq (s : State) (v : Word) :
    busWrite s (s.cfg.base + 0x040) (leBytes 8 v.toNat) = .next (s.pushSeed (v.setWidth 32)) :=
  busWrite_reg s (r := .seedq) v rfl

/-- Settles O15: a write is a push, with room or without; a read of SEEDQ is illegal. -/
theorem seedqPort : Obligations.SeedqPort := by
  intro s v
  have hword : v.setWidth 32 = BitVec.ofNat 32 (v.toNat % 2 ^ 32) := by
    apply BitVec.eq_of_toNat_eq
    simp
  refine ⟨fun hroom => ?_, fun hfull => ?_, busRead_illegal s (by decide) (by decide)⟩
  · rw [busWrite_seedq, State.pushSeed_room _ hroom, hword]
    rfl
  · rw [busWrite_seedq, State.pushSeed_full _ hfull]

end Sys2Proof.Machine
end

section
/-! PROOFS. Legal and illegal accesses to the window (20_memory.md R71, R73, R75 to R78, 60_exceptions.md R336): which
accesses R75 allows, what a legal read returns, and when the host's fault is marked. -/

namespace Sys2Proof

/-! ## The register map (R72) -/

theorem Reg.offset_of_ofOffset {off : Nat} {r : Reg} (h : Reg.ofOffset off = some r) : off = r.offset := by
  unfold Reg.ofOffset at h
  split at h <;> cases h <;> rfl

/-- Registers are aligned and lie outside the reserved range (R42, R76). -/
theorem Reg.offset_aligned (r : Reg) : r.offset % 8 = 0 ∧ (r.offset < 0x058 ∨ 0x080 ≤ r.offset) := by
  cases r <;> decide

theorem Reg.offset_of_readable {r : Reg} (h : r.readable = true) : r.offset ≠ 0x000 ∧ r.offset ≠ 0x040 := by
  revert h
  cases r <;> decide

theorem Reg.offset_of_writable {r : Reg} (h : r.writable = true) : r.offset < 0x030 ∨ r.offset = 0x040 := by
  revert h
  cases r <;> decide

theorem Reg.readable_of_ne {r : Reg} (hcmd : r ≠ .cmd) (hseedq : r ≠ .seedq) : r.readable = true := by
  cases r
  case cmd => exact absurd rfl hcmd
  case seedq => exact absurd rfl hseedq
  all_goals rfl

namespace Machine

/-! ## Legal accesses (R75) -/

/-- What `legalRead` and `legalWrite` share: the width, the direction and the offset that R75 asks for. -/
theorem legalAccess_eq_some {off width : Nat} {allows : Reg → Bool} {r : Reg}
    (h : (if width = 8 then (Reg.ofOffset off).filter allows else none) = some r) :
    width = 8 ∧ allows r = true ∧ off = r.offset := by
  split at h
  next hwidth =>
    obtain ⟨hoff, hallows⟩ := Option.filter_eq_some_iff.mp h
    exact ⟨hwidth, hallows, Reg.offset_of_ofOffset hoff⟩
  · cases h

theorem legalRead_eq_some {off width : Nat} {r : Reg} (h : legalRead off width = some r) :
    width = 8 ∧ r.readable = true ∧ off = r.offset := legalAccess_eq_some h

theorem legalWrite_eq_some {off width : Nat} {r : Reg} (h : legalWrite off width = some r) :
    width = 8 ∧ r.writable = true ∧ off = r.offset := legalAccess_eq_some h

/-- The illegal reads of R77. -/
theorem legalRead_eq_none {off width : Nat}
    (h : width ≠ 8 ∨ off % 8 ≠ 0 ∨ (0x058 ≤ off ∧ off < 0x080) ∨ off = 0x000 ∨ off = 0x040) :
    legalRead off width = none := by
  refine Option.eq_none_iff_forall_ne_some.mpr fun r hr => ?_
  obtain ⟨hwidth, hread, rfl⟩ := legalRead_eq_some hr
  have haligned := r.offset_aligned
  have hport := Reg.offset_of_readable hread
  omega

/-- The illegal writes of R77. -/
theorem legalWrite_eq_none {off width : Nat}
    (h : width ≠ 8 ∨ off % 8 ≠ 0 ∨ (0x058 ≤ off ∧ off < 0x080) ∨ off = 0x030 ∨ off = 0x038 ∨ off = 0x048 ∨
      off = 0x050 ∨ 0x080 ≤ off) :
    legalWrite off width = none := by
  refine Option.eq_none_iff_forall_ne_some.mpr fun r hr => ?_
  obtain ⟨hwidth, hwrite, rfl⟩ := legalWrite_eq_some hr
  have haligned := r.offset_aligned
  have hports := Reg.offset_of_writable hwrite
  omega

/-! ## The host's fault (R77, R336) -/

@[simp] theorem HostAgent.advance_busFault (h : HostAgent) : h.advance.busFault = h.busFault := rfl

@[simp] theorem HostAgent.store_busFault (h : HostAgent) (dst : VarRef) (v : Nat) :
    (h.store dst v).busFault = h.busFault := rfl

theorem exec_host {i : Instr} {s t : State} (h : exec i s = .next t) : t.host = s.host :=
  (congrArg State.host (exec_frame h) :)

theorem blockStep_host {s t : State} (h : blockStep s = .next t) : t.host = s.host := by
  unfold blockStep at h
  split at h
  · exact exec_host h
  · cases h; rfl

theorem writeCmd_host {s t : State} {w : Word} (h : writeCmd s w = .next t) : t.host = s.host := by
  unfold writeCmd at h
  split at h
  · cases h; exact State.raise_host s .busy
  · split at h
    · cases h; exact State.raise_host s .illegal
    · exact exec_host h

theorem writeStatus_host (s : State) (v : Word) : (writeStatus s v).host = s.host := by
  unfold writeStatus
  split <;> rfl

theorem State.pushSeed_host (s : State) (w : SeedWord) : (s.pushSeed w).host = s.host := by
  unfold State.pushSeed
  split
  · rfl
  · exact State.raise_host s .seedqOverflow

/-- A write that the register allows is no fault of the host's. -/
theorem writeReg_host {s t : State} {r : Reg} {v : Word} (hr : r.writable = true) (h : writeReg s r v = .next t) :
    t.host = s.host := by
  cases r
  case cmd => exact writeCmd_host h
  case status => cases h; exact writeStatus_host s v
  case arg0Lo | arg0Hi | arg1Lo | arg1Hi => cases h; rfl
  case seedq => cases h; exact s.pushSeed_host _
  all_goals cases hr

theorem busRead_busFault (s : State) (addr width : Nat) :
    (busRead s addr width).2.host.busFault =
      (s.host.busFault || (inWindow s.cfg addr && (legalRead (addr - s.cfg.base) width).isNone)) := by
  unfold busRead
  cases inWindow s.cfg addr with
  | false => simp
  | true => cases legalRead (addr - s.cfg.base) width <;> simp

theorem busWrite_busFault {s t : State} {addr : Nat} {data : List Byte} (h : busWrite s addr data = .next t) :
    t.host.busFault =
      (s.host.busFault || (inWindow s.cfg addr && (legalWrite (addr - s.cfg.base) data.length).isNone)) := by
  unfold busWrite at h
  split at h
  next hin =>
    split at h
    next r hr =>
      obtain ⟨-, hwrite, -⟩ := legalWrite_eq_some hr
      simp [hr, writeReg_host hwrite h]
    next hnone => cases h; simp [hin, hnone]
  next hout => cases h; simp [hout]

@[simp] theorem State.setTurns_nextOpIsBusError (s : State) (ts : List Turn) :
    (s.setTurns ts).nextOpIsBusError = s.nextOpIsBusError := rfl

/-- The host's turn marks its fault exactly when its operation is a bus error. -/
theorem hostStep_busFault {s t : State} (h : hostStep s = .next t) :
    t.host.busFault = (s.host.busFault || s.nextOpIsBusError) := by
  unfold hostStep at h
  unfold State.nextOpIsBusError
  cases hop : s.host.prog[s.host.pc]? with
  | none => rw [hop] at h; cases h; simp
  | some op =>
    rw [hop] at h
    cases op with
    | memRead addr width dst => cases h; exact busRead_busFault s addr width
    | memWrite addr width v => simpa using busWrite_busFault h
    | set dst v => cases h; simp
    | goto target => cases h; simp
    | ifGoto c target => cases h; cases hc : HCond.holds s.host.vars c <;> simp

/-- R336: the premise fails from the step that makes the bus error on, and nothing else makes it fail. -/
theorem step_noBusError {s t : State} (h : step s = .next t) :
    t.noBusError = (s.noBusError && !(s.nextTurn.1 == .host && s.nextOpIsBusError)) := by
  obtain ⟨hwf, -⟩ := step_cases h
  rw [step_of_wf hwf] at h
  unfold State.noBusError
  generalize s.nextTurn = next at h ⊢
  obtain ⟨turn, ts⟩ := next
  cases turn with
  | host => simp [hostStep_busFault h]
  | block => simp [blockStep_host h]
  | reset => cases h; simp
  | idle => cases h; simp

/-- Settles O12: the illegal accesses name no register, and a step marks the host's fault at these only. -/
theorem busErrors : Obligations.BusErrors :=
  ⟨fun s _ hoff => ⟨fun _ h => busRead_illegal s hoff (legalRead_eq_none h),
      fun _ h => busWrite_illegal s hoff (legalWrite_eq_none h)⟩,
    fun _ _ h => step_noBusError h⟩

/-! ## Legal reads (R73, R78) -/

/-- R73: the k-th byte of a word on the bus is bits 8k+7 to 8k. -/
theorem leBytes_word_getElem? (v : Word) {k : Nat} (hk : k < 8) :
    (leBytes 8 v.toNat)[k]? = some (v.extractLsb' (8 * k) 8) := by
  have hbyte : v.extractLsb' (8 * k) 8 = BitVec.ofNat 8 (v.toNat >>> (8 * k)) := rfl
  rw [leBytes_getElem? _ hk, hbyte, Nat.shiftRight_eq_div_pow, pow_mul, show (2 ^ 8 : Nat) = 256 from rfl]

/-- The flags of SEEDED do not overlap, so the word is their sum (R37). -/
theorem State.seededWord_toNat (s : State) :
    s.seededWord.toNat = s.lfc.i0.seeded.toNat + 2 * s.lfc.i1.seeded.toNat + 4 * s.phx.i0.seeded.toNat +
      8 * s.phx.i1.seeded.toNat := by
  have := s.lfc.i0.seeded.toNat_le
  have := s.lfc.i1.seeded.toNat_le
  have := s.phx.i0.seeded.toNat_le
  have := s.phx.i1.seeded.toNat_le
  rw [State.seededWord, BitVec.toNat_ofNat, Nat.mod_eq_of_lt (by omega)]

/-- Settles O13: a legal read returns the bytes of `readReg` in the same state. -/
theorem legalReads : Obligations.LegalReads := by
  refine ⟨fun s r hcmd hseedq => ?_, fun s => ⟨?_, fun hlen => ?_⟩, fun s => ?_, fun c => ⟨rfl, rfl, rfl, rfl⟩⟩
  · rw [busRead_reg s (Reg.readable_of_ne hcmd hseedq)]
    exact ⟨rfl, fun k hk => leBytes_word_getElem? _ hk⟩
  · have hread : busRead s (s.cfg.base + 0x050) 8 = (leBytes 8 s.seededWord.toNat, s) :=
      busRead_reg s (r := .seeded) rfl
    rw [hread, State.seededWord_toNat]
  · have hread : busRead s (s.cfg.base + 0x048) 8 = (leBytes 8 (BitVec.ofNat 64 s.seedq.length).toNat, s) :=
      busRead_reg s (r := .seedqCount) rfl
    rw [hread, BitVec.toNat_ofNat, Nat.mod_eq_of_lt hlen]
  · exact ⟨busRead_reg s (r := .resLo) rfl, busRead_reg s (r := .resHi) rfl⟩

/-! ## Outside the window (R71) -/

theorem busWrite_outside {s : State} {addr : Nat} (h : ¬ inWindow s.cfg addr = true) (data : List Byte) :
    busWrite s addr data = .next s := if_neg h

theorem busRead_outside {s : State} {addr : Nat} (h : ¬ inWindow s.cfg addr = true) (width : Nat) :
    busRead s addr width = (leBytes width (Config.freeValue s.freeCtr), s.setFreeCtr (s.freeCtr + 1)) := if_neg h

/-- Settles O16: both accesses first ask whether the address is in the window. -/
theorem outsideWindow : Obligations.OutsideWindow := by
  intro s addr hout
  have hwindow : ¬ inWindow s.cfg addr = true := by
    rw [inWindow_iff]
    omega
  refine ⟨busWrite_outside hwindow, fun width => ?_⟩
  rw [busRead_outside hwindow]
  rfl

end Machine
end Sys2Proof
end

section
/-! PROOFS. The encoding (30_encoding.md R100 to R104): a word is its four fields, a legal word's fields are those of
its command, and the grounds on which a word is illegal are those of the opcode map. -/

namespace Sys2Proof

/-! ## The fields of a word (R101) -/

theorem fieldsOf_op_toNat (w : Word) : (fieldsOf w).op.toNat = w.toNat % 2 ^ 8 := by
  simp [fieldsOf, BitVec.extractLsb'_toNat]

theorem fieldsOf_inst_toNat (w : Word) : (fieldsOf w).inst.toNat = w.toNat / 2 ^ 8 % 2 := by
  simp [fieldsOf, BitVec.extractLsb'_toNat, Nat.shiftRight_eq_div_pow]

theorem fieldsOf_var_toNat (w : Word) : (fieldsOf w).var.toNat = w.toNat / 2 ^ 9 % 2 := by
  simp [fieldsOf, BitVec.extractLsb'_toNat, Nat.shiftRight_eq_div_pow]

theorem fieldsOf_rsv_toNat (w : Word) : (fieldsOf w).rsv.toNat = w.toNat / 2 ^ 10 := by
  have := w.isLt
  simp only [fieldsOf, BitVec.extractLsb'_toNat, Nat.shiftRight_eq_div_pow]
  omega

/-- The four fields cover the word (R101). -/
theorem fieldsOf_injective {w u : Word} (h : fieldsOf w = fieldsOf u) : w = u := by
  have hop : w.toNat % 2 ^ 8 = u.toNat % 2 ^ 8 := by rw [← fieldsOf_op_toNat, h, fieldsOf_op_toNat]
  have hinst : w.toNat / 2 ^ 8 % 2 = u.toNat / 2 ^ 8 % 2 := by rw [← fieldsOf_inst_toNat, h, fieldsOf_inst_toNat]
  have hvar : w.toNat / 2 ^ 9 % 2 = u.toNat / 2 ^ 9 % 2 := by rw [← fieldsOf_var_toNat, h, fieldsOf_var_toNat]
  have hrsv : w.toNat / 2 ^ 10 = u.toNat / 2 ^ 10 := by rw [← fieldsOf_rsv_toNat, h, fieldsOf_rsv_toNat]
  apply BitVec.eq_of_toNat_eq
  omega

/-! ## The opcode map (R102), read both ways -/

theorem Mnem.ofOp_op (m : Mnem) : Mnem.ofOp (BitVec.ofNat 8 m.op) = some m := by cases m <;> rfl

theorem Mnem.op_of_ofOp {op : BitVec 8} {m : Mnem} (h : Mnem.ofOp op = some m) : op.toNat = m.op := by
  unfold Mnem.ofOp at h
  split at h <;> cases h <;> assumption

theorem Mnem.ofOp_eq_some_iff {op : BitVec 8} {m : Mnem} : Mnem.ofOp op = some m ↔ op.toNat = m.op := by
  refine ⟨Mnem.op_of_ofOp, fun h => ?_⟩
  rw [← Mnem.ofOp_op m, ← h, BitVec.ofNat_toNat, BitVec.setWidth_eq]

/-- The row of R102 that a mnemonic stands in. -/
def Mnem.row (m : Mnem) : OpRow := ⟨m.op, m.usesInst, m.usesVar⟩

/-- The rows of R102 are those of the mnemonics. -/
theorem forall_mem_opRows_iff {P : OpRow → Prop} : (∀ row ∈ opRows, P row) ↔ ∀ m : Mnem, P m.row := by
  have hrows : opRows = Machine.mnems.map Mnem.row := rfl
  have hall : ∀ m : Mnem, m ∈ Machine.mnems := fun m => by cases m <;> decide
  simp [hrows, hall]

/-! ## A command's fields (R101, R103) -/

/-- The INST bit of a command's word: 0 where the opcode has no such field. -/
def Instr.instBit (i : Instr) : BitVec 1 := BitVec.ofNat 1 ((i.inst?.map Inst.bit).getD 0)

/-- The VAR bit of a command's word: 0 where the opcode has no such field. -/
def Instr.varBit (i : Instr) : BitVec 1 := BitVec.ofNat 1 ((i.var?.map Variant.bit).getD 0)

/-- The fields that R103 gives a command. -/
def Instr.fields (i : Instr) : CmdFields :=
  { op := BitVec.ofNat 8 i.mnem.op, inst := i.instBit, var := i.varBit, rsv := 0 }

@[simp] theorem fieldsOf_encode (i : Instr) : fieldsOf (encode i) = i.fields := by
  cases i with
  | lfcSeed n v | lfcSeedseq n v | phxNext n v | phxDiscard n v => cases n <;> cases v <;> rfl
  | lfcNext n | lfcBack n | lfcDiscard n | phxSeed n | phxSeedseq n => cases n <;> rfl
  | _ => rfl

@[simp] theorem Mnem.mnem_instr (m : Mnem) (n : Inst) (v : Variant) : (m.instr n v).mnem = m := by cases m <;> rfl

theorem Mnem.inst?_instr (m : Mnem) (n : Inst) (v : Variant) :
    (m.instr n v).inst? = if m.usesInst then some n else none := by cases m <;> rfl

theorem Mnem.var?_instr (m : Mnem) (n : Inst) (v : Variant) :
    (m.instr n v).var? = if m.usesVar then some v else none := by cases m <;> rfl

theorem Inst.bit_ofBit (b : BitVec 1) : BitVec.ofNat 1 (Inst.ofBit b).bit = b := by revert b; decide

theorem Variant.bit_ofBit (b : BitVec 1) : BitVec.ofNat 1 (Variant.ofBit b).bit = b := by revert b; decide

theorem bit_eq_zero_of_ne_one {b : BitVec 1} : b ≠ 1#1 → b = 0#1 := by revert b; decide

/-- An INST bit that the opcode admits, or that is 0, is the bit of the command read with it. -/
theorem Mnem.instBit_instr {m : Mnem} {b : BitVec 1} (h : b = 1#1 → m.usesInst = true) (v : Variant) :
    (m.instr (Inst.ofBit b) v).instBit = b := by
  rw [Instr.instBit, Mnem.inst?_instr]
  split
  · exact Inst.bit_ofBit b
  next hno => exact (bit_eq_zero_of_ne_one (hno ∘ h)).symm

/-- A VAR bit that the opcode admits, or that is 0, is the bit of the command read with it. -/
theorem Mnem.varBit_instr {m : Mnem} {b : BitVec 1} (n : Inst) (h : b = 1#1 → m.usesVar = true) :
    (m.instr n (Variant.ofBit b)).varBit = b := by
  rw [Instr.varBit, Mnem.var?_instr]
  split
  · exact Variant.bit_ofBit b
  next hno => exact (bit_eq_zero_of_ne_one (hno ∘ h)).symm

/-! ## The decoder -/

/-- What the decoder asks of the fields, and the command it then reads from them (R102, R104). -/
theorem decodeFields_eq_ok_iff {f : CmdFields} {i : Instr} :
    decodeFields f = .ok i ↔
      f.rsv = 0 ∧ ∃ m, Mnem.ofOp f.op = some m ∧ (f.inst = 1#1 → m.usesInst = true) ∧
        (f.var = 1#1 → m.usesVar = true) ∧ m.instr (Inst.ofBit f.inst) (Variant.ofBit f.var) = i := by
  unfold decodeFields
  by_cases hrsv : f.rsv = 0#54
  · rw [if_neg (not_not.mpr hrsv)]
    cases hop : Mnem.ofOp f.op with
    | none => simp
    | some m =>
      by_cases hinst : f.inst = 1#1 ∧ m.usesInst = false
      · simp [hinst]
      · by_cases hvar : f.var = 1#1 ∧ m.usesVar = false
        · simp [if_neg hinst, hvar]
        · simp only [if_neg hinst, if_neg hvar]
          simp_all
  · simp [hrsv]

/-- The decoder reads a command from that command's fields and from no others. -/
theorem decodeFields_eq_ok_iff_fields {f : CmdFields} {i : Instr} : decodeFields f = .ok i ↔ f = i.fields := by
  constructor
  · intro h
    obtain ⟨hrsv, m, hop, hinst, hvar, rfl⟩ := decodeFields_eq_ok_iff.mp h
    rw [Instr.fields, Mnem.mnem_instr, ← Mnem.op_of_ofOp hop, BitVec.ofNat_toNat, BitVec.setWidth_eq,
      Mnem.instBit_instr hinst, Mnem.varBit_instr _ hvar, ← hrsv]
  · rintro rfl
    cases i with
    | lfcSeed n v | lfcSeedseq n v | phxNext n v | phxDiscard n v => cases n <;> cases v <;> rfl
    | lfcNext n | lfcBack n | lfcDiscard n | phxSeed n | phxSeedseq n => cases n <;> rfl
    | _ => rfl

/-- Settles O1: a word decodes to a command exactly when its fields are the command's, which are those of the command's
encoding, and a word is its fields. -/
theorem decodeIffEncode : Obligations.DecodeIffEncode := fun w i =>
  calc decode w = .ok i
    _ ↔ fieldsOf w = i.fields := decodeFields_eq_ok_iff_fields
    _ ↔ fieldsOf (encode i) = fieldsOf w := by rw [fieldsOf_encode, eq_comm]
    _ ↔ encode i = w := ⟨fieldsOf_injective, congrArg fieldsOf⟩

/-- Settles O3: each list of bytes decodes by evaluation. -/
theorem specWordsDecode : Obligations.SpecWordsDecode := by
  unfold Obligations.SpecWordsDecode
  decide

/-! ## Legal and illegal words (R104) -/

/-- A field of one bit is that bit of the word. -/
theorem extractLsb'_one_eq_one_iff (w : Word) (k : Nat) : w.extractLsb' k 1 = 1#1 ↔ w.getLsbD k = true := by
  rw [← BitVec.toNat_inj, BitVec.extractLsb'_toNat, Nat.shiftRight_eq_div_pow, BitVec.getLsbD,
    Nat.testBit_eq_decide_div_mod_eq, decide_eq_true_iff]
  rfl

/-- The legal words (R104): RSV is 0, and some mnemonic has the opcode and admits the fields that are set. -/
theorem exists_decode_eq_ok_iff {w : Word} :
    (∃ i, decode w = .ok i) ↔
      w.toNat / 2 ^ 10 = 0 ∧ ∃ m : Mnem, m.op = w.toNat % 2 ^ 8 ∧ (w.getLsbD 8 = true → m.usesInst = true) ∧
        (w.getLsbD 9 = true → m.usesVar = true) := by
  have hrsv : (fieldsOf w).rsv = 0 ↔ w.toNat / 2 ^ 10 = 0 := by
    rw [← fieldsOf_rsv_toNat, ← BitVec.toNat_inj]
    rfl
  have hop : ∀ m, Mnem.ofOp (fieldsOf w).op = some m ↔ m.op = w.toNat % 2 ^ 8 := fun m => by
    rw [Mnem.ofOp_eq_some_iff, fieldsOf_op_toNat, eq_comm]
  have hinst : (fieldsOf w).inst = 1#1 ↔ w.getLsbD 8 = true := extractLsb'_one_eq_one_iff w 8
  have hvar : (fieldsOf w).var = 1#1 ↔ w.getLsbD 9 = true := extractLsb'_one_eq_one_iff w 9
  unfold decode
  simp only [decodeFields_eq_ok_iff, hrsv, hop, hinst, hvar]
  simp

/-- R104: an illegal word written while no command is pending records E_ILLEGAL. -/
theorem writeCmd_of_illegal {s : Machine.State} {w : Word} (hidle : s.pend = none) (h : ∀ i, decode w ≠ .ok i) :
    Machine.writeCmd s w = .next (s.raise .illegal) := by
  unfold Machine.writeCmd
  rw [if_neg (by simp [Machine.State.busy, hidle])]
  split
  · rfl
  next i hi => exact absurd hi (h i)

/-- Settles O2: the contrary of `exists_decode_eq_ok_iff`, with the mnemonics as the rows of the opcode map. -/
theorem illegalWords : Obligations.IllegalWords := by
  refine fun w => ⟨?_, fun h s hidle => writeCmd_of_illegal hidle h⟩
  rw [← not_exists, exists_decode_eq_ok_iff, forall_mem_opRows_iff, not_and_or, not_exists]
  refine or_congr Iff.rfl (forall_congr' fun m => ?_)
  rw [not_and]
  simp only [not_and_or, Classical.not_imp, Bool.not_eq_true, Mnem.row]

end Sys2Proof
end

section
/-! PROOFS. Issue and perform (30_encoding.md R107 to R111, 60_exceptions.md R327): what a write to CMD does case by
case, the checks each command has, and how a perform ends. -/

namespace Sys2Proof.Machine

/-! ## Issue, case by case (R107, R108) -/

/-- The state after an issue that goes through: the command is pending with the oldest words of the FIFO, and the rest
stay (R107, R108). -/
def State.latched (s : State) (i : Instr) : State :=
  { s.issued i (s.seedq.take (wordsNeeded s.cfg i)) with seedq := s.seedq.drop (wordsNeeded s.cfg i) }

theorem State.issue_of_check {s : State} {i : Instr} {e : ErrCode} (h : issueCheck i s.opB s = some e) :
    s.issue i = s.raise e := by
  simp only [State.issue, h]

theorem State.issue_of_underflow {s : State} {i : Instr} (hcheck : issueCheck i s.opB s = none)
    (hfew : s.seedq.length < wordsNeeded s.cfg i) : s.issue i = s.raise .seedqUnderflow := by
  simp only [State.issue, hcheck, seedWords_eq_none.mpr hfew]

theorem State.issue_of_words {s : State} {i : Instr} (hcheck : issueCheck i s.opB s = none)
    (hwords : wordsNeeded s.cfg i ≤ s.seedq.length) : s.issue i = s.latched i := by
  rcases s.issue_cases i with ⟨e, he, -⟩ | ⟨-, hfew, -⟩ | ⟨-, -, h⟩
  · rw [hcheck] at he
    cases he
  · omega
  · exact h

theorem State.latched_of_no_words {s : State} {i : Instr} (h : wordsNeeded s.cfg i = 0) :
    s.latched i = s.issued i [] := by
  simp only [State.latched, h, List.take_zero, List.drop_zero]
  rfl

/-- R327: with a command pending, E_BUSY comes before anything the word says. -/
theorem writeCmd_busy {s : State} (w : Word) (h : s.pend ≠ none) : writeCmd s w = .next (s.raise .busy) :=
  if_pos (Option.isSome_iff_ne_none.mpr h)

/-- A legal word written while no command is pending issues its command. -/
theorem writeCmd_issues {s : State} {w : Word} {i : Instr} (hidle : s.pend = none) (h : decode w = .ok i) :
    writeCmd s w = .next (s.issue i) :=
  (writeCmd_of_decode hidle h).trans (exec_idle i hidle)

/-- Settles O7: a pending command refuses the write; else the word is illegal, or the write is its command's issue. -/
theorem issueRule : Obligations.IssueRule := by
  refine fun s w => ⟨writeCmd_busy w, fun hidle => ⟨writeCmd_of_illegal hidle, fun i e hi he => ?_, fun i hi hcheck =>
    ⟨fun hfew => ?_, fun hwords => ?_⟩⟩⟩
  · rw [writeCmd_issues hidle hi, State.issue_of_check he]
  · rw [writeCmd_issues hidle hi, State.issue_of_underflow hcheck hfew]
  · rw [writeCmd_issues hidle hi, State.issue_of_words hcheck hwords]
    rfl

/-! ## The checks of R109 -/

theorem exec_raises {s : State} {i : Instr} {e : ErrCode} (hidle : s.pend = none)
    (h : issueCheck i s.opB s = some e) : exec i s = .next (s.raise e) := by
  rw [exec_idle i hidle, State.issue_of_check h]

theorem exec_latches {s : State} {i : Instr} (hidle : s.pend = none) (hcheck : issueCheck i s.opB s = none)
    (hwords : wordsNeeded s.cfg i ≤ s.seedq.length) : exec i s = .next (s.latched i) := by
  rw [exec_idle i hidle, State.issue_of_words hcheck hwords]

/-- A command that takes no seed words becomes pending once its checks pass. -/
theorem exec_issues {s : State} {i : Instr} (hidle : s.pend = none) (hcheck : issueCheck i s.opB s = none)
    (hfree : wordsNeeded s.cfg i = 0) : exec i s = .next (s.issued i []) := by
  rw [exec_latches hidle hcheck (by omega), State.latched_of_no_words hfree]

/-- Both units of a pair are seeded only if each of them is. -/
theorem both_seeded_eq_false {α : Type} {seeded : α → Bool} {p : Pair α} {n : Inst} (h : seeded (p.get n) = false) :
    (seeded p.i0 && seeded p.i1) = false := by
  cases n
  · exact Bool.and_eq_false_iff.mpr (.inl h)
  · exact Bool.and_eq_false_iff.mpr (.inr h)

theorem State.opB_eq_zero_iff {s : State} : s.opB = 0#128 ↔ s.arg1Hi = 0 ∧ s.arg1Lo = 0 := by
  constructor
  · intro h
    have hhi := (U128.hi_ofHalves s.arg1Hi s.arg1Lo).symm.trans (congrArg U128.hi h)
    have hlo := (U128.lo_ofHalves s.arg1Hi s.arg1Lo).symm.trans (congrArg U128.lo h)
    exact ⟨hhi.trans (by decide), hlo.trans (by decide)⟩
  · rintro ⟨hhi, hlo⟩
    rw [State.opB, hhi, hlo]
    rfl

/-- R109: of its checks 1 to 3, any command but these eight has none. -/
theorem issueCheck_eq_none {i : Instr} {b : U128} {s : State}
    (hlfc : ∀ m, i ≠ .lfcNext m ∧ i ≠ .lfcBack m ∧ i ≠ .lfcDiscard m)
    (hphx : ∀ m u, i ≠ .phxNext m u ∧ i ≠ .phxDiscard m u) (hlfcEq : i ≠ .lfcEq) (hphxEq : i ≠ .phxEq)
    (hmod : i ≠ .u128Mod) : issueCheck i b s = none := by
  cases i
  case lfcNext m => exact absurd rfl (hlfc m).1
  case lfcBack m => exact absurd rfl (hlfc m).2.1
  case lfcDiscard m => exact absurd rfl (hlfc m).2.2
  case phxNext m u => exact absurd rfl (hphx m u).1
  case phxDiscard m u => exact absurd rfl (hphx m u).2
  case lfcEq => exact absurd rfl hlfcEq
  case phxEq => exact absurd rfl hphxEq
  case u128Mod => exact absurd rfl hmod
  all_goals rfl

/-- Settles O8: each clause evaluates the one check that its command has. -/
theorem issueChecks : Obligations.IssueChecks := by
  intro s n v hidle
  refine ⟨fun hl => ?_, fun hx => ?_, fun hl hpred => ?_, fun hhi hlo => ?_, fun hl => ?_, fun hx => ?_,
    fun h0 h1 => ?_, fun h0 h1 => ?_, fun hb => ?_, fun i hlfc hphx hlfcEq hphxEq hmod => ?_⟩
  · have hboth := both_seeded_eq_false (seeded := LfcInst.seeded) hl
    refine ⟨exec_raises hidle ?_, exec_raises hidle ?_, exec_raises hidle ?_, exec_raises hidle ?_⟩ <;>
      simp [issueCheck, hl, hboth]
  · have hboth := both_seeded_eq_false (seeded := PhxInst.seeded) hx
    refine ⟨exec_raises hidle ?_, exec_raises hidle ?_, exec_raises hidle ?_⟩ <;> simp [issueCheck, hx, hboth]
  · exact exec_raises hidle (by simp [issueCheck, hl, hpred])
  · exact exec_raises hidle (by simp [issueCheck, State.opB_eq_zero_iff.mpr ⟨hhi, hlo⟩])
  · exact ⟨exec_issues hidle (by simp [issueCheck, hl]) rfl, exec_issues hidle (by simp [issueCheck, hl]) rfl,
      fun hpred => exec_issues hidle (by simp [issueCheck, hl, hpred]) rfl⟩
  · exact ⟨exec_issues hidle (by simp [issueCheck, hx]) rfl, exec_issues hidle (by simp [issueCheck, hx]) rfl⟩
  · exact exec_issues hidle (by simp [issueCheck, h0, h1]) rfl
  · exact exec_issues hidle (by simp [issueCheck, h0, h1]) rfl
  · have hB : s.opB ≠ 0#128 := fun h => by
      obtain ⟨hhi, hlo⟩ := State.opB_eq_zero_iff.mp h
      exact hb.elim (absurd hhi) (absurd hlo)
    exact exec_issues hidle (by simp [issueCheck, hB]) rfl
  · have hcheck := issueCheck_eq_none (b := s.opB) (s := s) hlfc hphx hlfcEq hphxEq hmod
    exact ⟨hcheck, exec_latches hidle hcheck⟩

/-! ## How a perform ends (R110, R111) -/

/-- R111: the commands that write no result leave RES. -/
theorem Performed.res_eq {i : Instr} {p : Pending} {s t : State} (h : Performed i p s t) (hi : leavesRes i = true) :
    t.resLo = s.resLo ∧ t.resHi = s.resHi := by
  cases h
  case result hr _ => rw [hr] at hi; cases hi
  case lfcNext | lfcBack | phxNext => cases hi
  all_goals exact ⟨rfl, rfl⟩

/-- Settles O19: a perform's frame holds the error record and the latch. -/
theorem performFrame : Obligations.PerformFrame := by
  intro i s t p hp h
  obtain ⟨-, hdone⟩ := exec_performed hp h
  have hframe := hdone.frame
  exact ⟨(congrArg State.err hframe :), (congrArg State.eovf hframe :), (congrArg State.ecode hframe :),
    (congrArg State.pend hframe :), hdone.res_eq⟩

/-! ## A pending command completes (R110, R323) -/

/-- A pending command still meets the conditions of its issue (R109). -/
theorem State.Inv.performable {s : State} {p : Pending} (h : s.Inv) (hp : s.pend = some p) :
    Machine.performable p.cmd p s = true := by
  obtain ⟨-, -, -, -, -, hpend, -⟩ := h
  simp only [State.pendingOk, hp, Bool.and_eq_true] at hpend
  exact hpend.1

/-- A seeding completes, or its construction is a corrected one whose warm-up has no predecessor (U7). -/
theorem seedLfc_completes (n : Inst) (v : Variant) (z : List SeedWord) (s : State) :
    (∃ t, seedLfc n (lfcConstruct s.cfg z v) s = .next t) ∨
      (seedLfc n (lfcConstruct s.cfg z v) s = .fault .warmupNoPredecessor ∧ v = .corrected) := by
  cases hst : lfcConstruct s.cfg z v with
  | some st => exact .inl ⟨_, seedLfc_some n st s⟩
  | none =>
    refine .inr ⟨rfl, ?_⟩
    cases v
    · cases hst
    · rfl

/-- The check that LFC.BACK passed at issue is that its perform has a state to step back to (R109, R149). -/
theorem lfcBack_of_performable {n : Inst} {p : Pending} {s : State} (h : performable (.lfcBack n) p s = true) :
    ∃ y st, lfcBack s.cfg (s.lfc.get n).st = some (y, st) := by
  obtain ⟨hcheck, -⟩ := performable_iff.mp h
  have hpred : lfcHasPred s.cfg (s.lfc.get n).st = true := by
    by_contra hno
    cases hseeded : (s.lfc.get n).seeded <;> simp [issueCheck, hno, hseeded] at hcheck
  exact ⟨_, _, if_pos hpred⟩

theorem command_completes {i : Instr} {s : State} {p : Pending} {eff : Pending → State → Result} (hp : s.pend = some p)
    (h : performable i p s = true) (heff : ∃ t, eff p s = .next t) : ∃ t, command i eff s = .next t := by
  rwa [command_pending eff hp h]

/-- A command that meets the conditions of its issue completes, a corrected LFC seeding perhaps excepted. -/
theorem exec_completes {i : Instr} {s : State} {p : Pending} (hp : s.pend = some p)
    (h : performable i p s = true) :
    (∃ t, exec i s = .next t) ∨
      (exec i s = .fault .warmupNoPredecessor ∧ ∃ n, i = .lfcSeed n .corrected ∨ i = .lfcSeedseq n .corrected) := by
  cases i
  case lfcSeed n v =>
    rw [exec_lfcSeed_pending hp h]
    exact (seedLfc_completes n v _ s).imp_right fun ⟨hf, hv⟩ => ⟨hf, n, .inl (hv ▸ rfl)⟩
  case lfcSeedseq n v =>
    rw [exec_lfcSeedseq_pending hp h]
    exact (seedLfc_completes n v _ s).imp_right fun ⟨hf, hv⟩ => ⟨hf, n, .inr (hv ▸ rfl)⟩
  case lfcBack n =>
    obtain ⟨y, st, hback⟩ := lfcBack_of_performable h
    exact .inl ⟨_, exec_lfcBack_pending hp h hback⟩
  all_goals
    simp only [exec]
    exact .inl (command_completes hp h ⟨_, rfl⟩)

/-- Settles O26: the invariant keeps the pending command performable, and a perform ends with nothing pending. -/
theorem performCompletes : Obligations.PerformCompletes := fun _ _ hs hp =>
  (exec_completes hp (hs.performable hp)).imp_left fun ⟨t, ht⟩ =>
    ⟨t, ht, by rw [(exec_performed hp ht).2.frame]⟩

end Sys2Proof.Machine
end

section
/-! PROOFS. The wait loop (20_memory.md R82, 30_encoding.md R113, 70_reset_and_hazards.md R373): the block performs, the
host reads STATUS with BUSY = 0, and its branch falls through. -/

namespace Sys2Proof.Machine

theorem coreRun_succ {M : Host.Core} {s t : M.State} (h : M.step s = .next t) (k : Nat) :
    M.run (k + 1) s = M.run k t := by
  simp only [Host.Core.run, h]

/-- With no turn scheduled and nothing pending, a host that does not stall makes its next operation (log entry 2). -/
theorem step_host_unscheduled {s : State} {op : HostOp} (hwf : s.cfg.wf = true) (hturns : s.turns = [])
    (hidle : s.pend = none) (hstalls : s.host.stalls = false) (hop : s.host.prog[s.host.pc]? = some op) :
    step s = hostOp s op := by
  rw [step_unscheduled hwf hturns, if_neg (by simp [State.busy, hidle]), if_neg (by simp [hstalls])]
  simp only [runTurn, hostStep, hop]

/-- `rd STATUS -> $t` stores the fields of STATUS. -/
theorem hostOp_read_status (s : State) (dst : VarRef) :
    hostOp s (.memRead (s.cfg.base + 0x008) 8 dst) =
      .next (s.setHost (s.host.store dst s.statusWord.toNat).advance) := by
  have hread : busRead s (s.cfg.base + 0x008) 8 = (leBytes 8 s.statusWord.toNat, s) :=
    busRead_reg s (r := .status) rfl
  simp only [hostOp, hread, leNat_leBytes_word]

/-- BUSY is the lowest bit of STATUS (R36). -/
theorem State.statusWord_even {s : State} (hidle : s.pend = none) : s.statusWord.toNat % 2 = 0 := by
  rw [State.statusWord_toNat, State.busy_toNat, if_pos hidle]
  omega

/-- The branch of a `wait` asks for the lowest bit of the variable it read. -/
theorem waitBranch_holds (vars : List (Nat × Nat)) (tmp : Nat) :
    HCond.holds vars (.eq (.bits 0 0 (.var (.var tmp))) (.lit 1)) = (varGet vars tmp % 2 == 1) := by
  simp [HCond.holds, HExpr.value, VarRef.name]

/-- A `wait` whose read found BUSY = 0 falls through. -/
theorem hostOp_wait_falls_through {s : State} {tmp place v : Nat} {vars : List (Nat × Nat)}
    (hvars : varsOk vars = true) (hs : s.host.vars = varSet vars tmp v) (hv : v % 2 = 0) :
    hostOp s (.ifGoto (.eq (.bits 0 0 (.var (.var tmp))) (.lit 1)) place) = .next (s.setHost s.host.advance) := by
  have hbranch : HCond.holds s.host.vars (.eq (.bits 0 0 (.var (.var tmp))) (.lit 1)) = false := by
    rw [waitBranch_holds, hs, varGet_varSet_same tmp v hvars, hv]
    rfl
  simp only [hostOp, hbranch]
  rfl

/-- Settles O28: the block performs first, then the host reads STATUS and passes its branch. -/
theorem waitEnds : Obligations.WaitEnds := by
  intro s t p tmp hs hturns hstalls hp hread hbranch hexec
  obtain ⟨hwf, -, -, -, -, -, hvars⟩ := hs
  have hframe := exec_frame hexec
  have hcfg : t.cfg = s.cfg := (congrArg State.cfg hframe :)
  have hhost : t.host = s.host := (congrArg State.host hframe :)
  have hidle : t.pend = none := by rw [(exec_performed hp hexec).2.frame]
  have hturns' : t.turns = [] := (congrArg State.turns hframe :).trans hturns
  rw [← hcfg] at hwf hread
  rw [← hhost] at hvars hstalls hread hbranch
  have hperform : step s = .next t := (stepPerformsPending.1 s p (hcfg ▸ hwf) hp).2 hturns |>.trans hexec
  have hpoll := (step_host_unscheduled hwf hturns' hidle hstalls hread).trans (hostOp_read_status t (.var tmp))
  have hpass := (step_host_unscheduled (s := t.setHost (t.host.store (.var tmp) t.statusWord.toNat).advance) hwf
    hturns' hidle hstalls hbranch).trans (hostOp_wait_falls_through hvars rfl (State.statusWord_even hidle))
  have hrun := (coreRun_succ (M := core) hperform 2).trans
    ((coreRun_succ (M := core) hpoll 1).trans (coreRun_succ (M := core) hpass 0))
  exact ⟨_, hrun, hidle, congrArg (fun h => h.pc + 2) hhost, rfl⟩

end Sys2Proof.Machine
end

section
/-! PROOFS. The assembler (30_encoding.md R112, R113): which qualifiers a command form must have, by what name any
other is refused, and what the pseudo-instructions expand to. -/

namespace Sys2Proof.Machine

theorem exists_checkVariant_eq_ok_iff {m : Mnem} {v : Option Variant} :
    (∃ u, checkVariant m v = .ok u) ↔ v.isSome = m.usesVar := by
  unfold checkVariant
  split <;> simp [*]

theorem exists_checkInst_eq_ok_iff {m : Mnem} {n : Option Inst} :
    (∃ u, checkInst m n = .ok u) ↔ n.isSome = m.usesInst := by
  unfold checkInst
  split <;> simp [*]

theorem assembleCmd_of_ok {f : CmdForm} {v : Variant} {n : Inst} (hv : checkVariant f.mnemonic f.variant = .ok v)
    (hn : checkInst f.mnemonic f.inst = .ok n) : assembleCmd f = .ok (f.mnemonic.instr n v) := by
  simp only [assembleCmd, hv, hn]

theorem assembleCmd_of_variant_error {f : CmdForm} {e : Refusal} (hv : checkVariant f.mnemonic f.variant = .error e) :
    assembleCmd f = .error e := by
  simp only [assembleCmd, hv]

theorem assembleCmd_of_inst_error {f : CmdForm} {e : Refusal} (hv : f.variant.isSome = f.mnemonic.usesVar)
    (hn : checkInst f.mnemonic f.inst = .error e) : assembleCmd f = .error e := by
  obtain ⟨v, hv⟩ := exists_checkVariant_eq_ok_iff.mpr hv
  simp only [assembleCmd, hv, hn]

/-- A form assembles exactly when each qualifier is there where it is admitted and only there (R112). -/
theorem exists_assembleCmd_eq_ok_iff {f : CmdForm} :
    (∃ i, assembleCmd f = .ok i) ↔ f.variant.isSome = f.mnemonic.usesVar ∧ f.inst.isSome = f.mnemonic.usesInst := by
  rw [← exists_checkVariant_eq_ok_iff, ← exists_checkInst_eq_ok_iff]
  constructor
  · rintro ⟨i, hi⟩
    unfold assembleCmd at hi
    split at hi
    · cases hi
    next v hv =>
      split at hi
      · cases hi
      next n hn => exact ⟨⟨v, hv⟩, n, hn⟩
  · rintro ⟨⟨v, hv⟩, n, hn⟩
    exact ⟨_, assembleCmd_of_ok hv hn⟩

/-- The form that names a command's own qualifiers assembles to the command. -/
theorem assembleCmd_own_form (i : Instr) :
    assembleCmd { mnemonic := i.mnem, variant := i.var?, inst := i.inst? } = .ok i := by cases i <;> rfl

/-- Settles O29: the two qualifiers are checked one after the other, and each expansion is the one written out. -/
theorem assemblerQualifiers : Obligations.AssemblerQualifiers := by
  refine ⟨assembleCmd_own_form, fun f => exists_assembleCmd_eq_ok_iff, fun m n v => ⟨fun h => ?_, fun h => ?_⟩,
    fun m v n hv => ⟨fun h => ?_, fun h => ?_⟩, rfl, rfl, rfl, fun base place tmp ps r v dst lo hi =>
      ⟨rfl, rfl, fun f i hf => ?_, rfl, rfl, rfl, rfl, rfl, rfl⟩⟩
  · exact assembleCmd_of_variant_error (by simp only [checkVariant, h])
  · exact assembleCmd_of_variant_error (by simp only [checkVariant, h])
  · exact assembleCmd_of_inst_error hv (by simp only [checkInst, h])
  · exact assembleCmd_of_inst_error hv (by simp only [checkInst, h])
  · simp only [expand, hf]
    rfl

end Sys2Proof.Machine
end

section
/-! PROOFS. The LFC commands (40_lfc.md R152 to R159, R173, R177): their words, their issue, and what their perform
leaves of the state. -/

namespace Sys2Proof.Machine

/-! ## The operand of a perform (R106) -/

theorem Pending.seed_eq (p : Pending) : p.seed = p.a.toNat % 2 ^ 64 := U128.lo_toNat p.a

theorem Pending.count_eq (p : Pending) : p.count = p.a.toNat % 2 ^ 64 := U128.lo_toNat p.a

/-- The count that an issue latches is ARG0_LO. -/
theorem issued_count_eq (s : State) : (U128.ofHalves s.arg0Hi s.arg0Lo).toNat % 2 ^ 64 = s.arg0Lo.toNat := by
  rw [← U128.lo_toNat, U128.lo_ofHalves]

/-! ## LFC.SEED and LFC.SEEDSEQ (R152, R153) -/

theorem seedLfc_of_some {n : Inst} {st : LfcState} {o : Option LfcState} (s : State) (h : o = some st) :
    seedLfc n o s = .next { s with lfc := s.lfc.set n { seeded := true, st := st }, pend := none } := by
  rw [h]
  rfl

theorem seedLfc_of_none {n : Inst} {o : Option LfcState} (s : State) (h : o = none) :
    seedLfc n o s = .fault .warmupNoPredecessor := by
  rw [h]
  rfl

theorem exec_lfcSeed_eq (n : Inst) (v : Variant) {s : State} {p : Pending} (hp : s.pend = some p) :
    exec (.lfcSeed n v) s = seedLfc n (lfcConstruct s.cfg (lcgWords s.cfg (p.a.toNat % 2 ^ 64)) v) s := by
  rw [exec_lfcSeed_pending hp (performable_free rfl rfl), Pending.seed_eq]

/-- Settles O31: the perform is `seedLfc` of the construction, which a literal variant always has. -/
theorem lfcSeedRule : Obligations.LfcSeedRule := by
  refine ⟨fun n v => ?_, fun n v s hidle => exec_issues hidle rfl rfl, fun n v s p hp => ?_, fun n s p hp => ?_⟩
  · cases n <;> cases v <;> decide
  · rw [exec_lfcSeed_eq n v hp]
    exact ⟨fun st => seedLfc_of_some s, seedLfc_of_none s⟩
  · rw [exec_lfcSeed_eq n .literal hp]
    exact seedLfc_of_some s rfl

theorem exec_lfcSeedseq_eq (n : Inst) (v : Variant) {s : State} {p : Pending} (hp : s.pend = some p)
    (hwords : p.words.length = s.cfg.rL * (s.cfg.wL / 32 + 1)) :
    exec (.lfcSeedseq n v) s = seedLfc n (lfcConstruct s.cfg p.words v) s :=
  exec_lfcSeedseq_pending hp (performable_iff.mpr ⟨rfl, hwords.ge⟩)

/-- Settles O32: the issue takes its words or underflows; the perform is `seedLfc` of the construction. -/
theorem lfcSeedseqRule : Obligations.LfcSeedseqRule := by
  refine ⟨fun n v => ?_, fun n v s hidle => ⟨fun hfew => ?_, fun hwords => ?_⟩, fun n v s p hp hwords => ?_⟩
  · cases n <;> cases v <;> decide
  · rw [exec_idle _ hidle, State.issue_of_underflow rfl hfew]
  · exact exec_latches hidle rfl hwords
  · rw [exec_lfcSeedseq_eq n v hp hwords, exec_lfcSeedseq_eq n .literal hp hwords]
    exact ⟨fun st => seedLfc_of_some s, seedLfc_of_none s, seedLfc_of_some s rfl⟩

/-! ## LFC.NEXT, LFC.BACK and LFC.DISCARD (R154 to R156) -/

theorem issueCheck_lfcNext {n : Inst} {s : State} (b : U128) (h : (s.lfc.get n).seeded = true) :
    issueCheck (.lfcNext n) b s = none := if_pos h

theorem issueCheck_lfcBack {n : Inst} {s : State} (b : U128) (h : (s.lfc.get n).seeded = true)
    (hpred : lfcHasPred s.cfg (s.lfc.get n).st = true) : issueCheck (.lfcBack n) b s = none :=
  (if_pos h).trans (if_pos hpred)

theorem issueCheck_lfcDiscard {n : Inst} {s : State} (b : U128) (h : (s.lfc.get n).seeded = true) :
    issueCheck (.lfcDiscard n) b s = none := if_pos h

/-- A result together with a step of a seeded unit. -/
theorem stepLfc_setRes_complete {n : Inst} {s : State} (h : (s.lfc.get n).seeded = true) (st : LfcState) (r : U128) :
    ((s.stepLfc n st).setRes r).complete = { s.answered r with lfc := s.lfc.set n { seeded := true, st := st } } := by
  rw [State.stepLfc, h]
  rfl

theorem exec_lfcNext_eq {n : Inst} {s : State} {p : Pending} (hp : s.pend = some p)
    (h : (s.lfc.get n).seeded = true) :
    exec (.lfcNext n) s = .next { s.answered (zext128 (lfcFwd s.cfg (s.lfc.get n).st).1) with
      lfc := s.lfc.set n { seeded := true, st := (lfcFwd s.cfg (s.lfc.get n).st).2 } } := by
  rw [exec_lfcNext_pending hp (performable_free (issueCheck_lfcNext p.b h) rfl), stepLfc_setRes_complete h]

theorem exec_lfcDiscard_eq {n : Inst} {s : State} {p : Pending} (hp : s.pend = some p)
    (h : (s.lfc.get n).seeded = true) :
    exec (.lfcDiscard n) s = .next { s with
      lfc := s.lfc.set n { seeded := true, st := lfcFwdN s.cfg (p.a.toNat % 2 ^ 64) (s.lfc.get n).st },
      pend := none } := by
  rw [exec_lfcDiscard_pending hp (performable_free (issueCheck_lfcDiscard p.b h) rfl), State.stepLfc, h, Pending.count_eq]
  rfl

/-- Settles O35: the perform is the forward step, whose carry is the borrow. -/
theorem lfcNextRule : Obligations.LfcNextRule := by
  refine ⟨fun n => ?_, fun n s hidle => ⟨fun hl => ?_, fun hl => ?_⟩, fun n s p hp hl => ?_⟩
  · cases n <;> decide
  · exact exec_raises hidle (by simp [issueCheck, hl])
  · exact exec_issues hidle (issueCheck_lfcNext s.opB hl) rfl
  · intro st sh temp y
    have hfwd : lfcFwd s.cfg (s.lfc.get n).st =
        (y, { x := st.x.set st.i y, i := (st.i + 1) % s.cfg.rL, carry := decide (st.x.getD sh 0 < temp) }) := by
      simp only [lfcFwd, Bool.toNat, Bool.cond_eq_ite, ← decide_not, Nat.not_le]
      rfl
    rw [exec_lfcNext_eq hp hl, hfwd]
    rfl

/-- Settles O36: the checks at issue one after the other; the perform is the backward step that the check promised. -/
theorem lfcBackRule : Obligations.LfcBackRule := by
  refine ⟨fun n => ?_, fun n s hidle => ⟨fun hl => ?_, fun hl hpred => ?_, fun hl hpred => ?_⟩,
    fun n s p hp hl hpred => ?_⟩
  · cases n <;> decide
  · exact exec_raises hidle (by simp [issueCheck, hl])
  · exact exec_raises hidle (by simp [issueCheck, hl, hpred])
  · exact exec_issues hidle (issueCheck_lfcBack s.opB hl hpred) rfl
  · have hperf := performable_free (issueCheck_lfcBack p.b hl hpred) rfl
    obtain ⟨y, st, hback⟩ := lfcBack_of_performable hperf
    refine ⟨y, st, hback, ?_⟩
    rw [exec_lfcBack_pending hp hperf hback, stepLfc_setRes_complete hl]
    rfl

/-! ## LFC.DISCARD is as many LFC.NEXT (R173) -/

/-- A command run to its end is its perform in the state its issue leaves. -/
theorem runCommand_of_issues {i : Instr} {s : State} (h : exec i s = .next (s.issued i [])) :
    runCommand i s = nextState? (exec i (s.issued i [])) := by
  simp only [runCommand, h, nextState?]

/-- The state with the LFC unit `n` moved on by `k` forward steps and RES replaced. -/
def State.afterNexts (s : State) (n : Inst) (k : Nat) (lo hi : Word) : State :=
  { s with
    lfc := s.lfc.set n { seeded := true, st := lfcFwdN s.cfg k (s.lfc.get n).st }
    resLo := lo, resHi := hi }

theorem runCommand_lfcNext {n : Inst} {s : State} (hidle : s.pend = none) (h : (s.lfc.get n).seeded = true) :
    ∃ lo hi, runCommand (.lfcNext n) s = some (s.afterNexts n 1 lo hi) := by
  have hissue := exec_issues hidle (issueCheck_lfcNext s.opB h) rfl
  have hperform := exec_lfcNext_eq (s := s.issued (.lfcNext n) []) rfl h
  rw [runCommand_of_issues hissue, hperform]
  refine ⟨U128.lo (zext128 (lfcFwd s.cfg (s.lfc.get n).st).1), U128.hi (zext128 (lfcFwd s.cfg (s.lfc.get n).st).1),
    congrArg some ?_⟩
  rw [State.afterNexts, hidle]
  rfl

theorem runCommand_lfcDiscard {n : Inst} {s : State} (hidle : s.pend = none) (h : (s.lfc.get n).seeded = true) :
    runCommand (.lfcDiscard n) s = some (s.afterNexts n s.arg0Lo.toNat s.resLo s.resHi) := by
  have hissue := exec_issues hidle (issueCheck_lfcDiscard s.opB h) rfl
  have hperform := exec_lfcDiscard_eq (s := s.issued (.lfcDiscard n) []) rfl h
  rw [runCommand_of_issues hissue, hperform, ← issued_count_eq]
  refine congrArg some ?_
  rw [State.afterNexts, hidle]
  rfl

@[simp] theorem Pair.set_set_same {α : Type} (p : Pair α) (n : Inst) (a b : α) : (p.set n a).set n b = p.set n b := by
  cases n <;> rfl

theorem State.afterNexts_afterNexts (s : State) (n : Inst) (j k : Nat) (lo hi lo' hi' : Word) :
    (s.afterNexts n j lo hi).afterNexts n k lo' hi' = s.afterNexts n (k + j) lo' hi' := by
  simp only [afterNexts, Pair.get_set_same, Pair.set_set_same, lfcFwdN, Function.iterate_add_apply]

theorem runCommands_lfcNext (n : Inst) (k : Nat) {s : State} (hidle : s.pend = none)
    (h : (s.lfc.get n).seeded = true) :
    ∃ lo hi, runCommands (.lfcNext n) k s = some (s.afterNexts n k lo hi) := by
  induction k generalizing s with
  | zero =>
    refine ⟨s.resLo, s.resHi, ?_⟩
    have hsame : s.lfc.set n { seeded := true, st := (s.lfc.get n).st } = s.lfc := by
      rw [← h]
      exact Pair.set_get_self s.lfc n
    simp only [runCommands, State.afterNexts, lfcFwdN, Function.iterate_zero, id, hsame]
  | succ k ih =>
    obtain ⟨lo₁, hi₁, hfirst⟩ := runCommand_lfcNext hidle h
    obtain ⟨lo, hi, hrest⟩ := ih (s := s.afterNexts n 1 lo₁ hi₁) hidle (by simp [State.afterNexts])
    refine ⟨lo, hi, ?_⟩
    rw [← State.afterNexts_afterNexts s n 1 k lo₁ hi₁, ← hrest]
    simp only [runCommands, hfirst]

/-- Settles O38: both runs leave the forward steps counted by ARG0_LO, and RES apart nothing else. -/
theorem lfcDiscardRule : Obligations.LfcDiscardRule := by
  refine ⟨fun n => ?_, fun n s hidle => ⟨fun hl => ?_, fun hl => ?_⟩, fun n s p => exec_lfcDiscard_eq,
    fun n s hidle hl => ?_⟩
  · cases n <;> decide
  · exact exec_raises hidle (by simp [issueCheck, hl])
  · exact exec_issues hidle (issueCheck_lfcDiscard s.opB hl) rfl
  · obtain ⟨lo, hi, hnexts⟩ := runCommands_lfcNext n s.arg0Lo.toNat hidle hl
    exact ⟨_, _, hnexts, runCommand_lfcDiscard hidle hl, rfl⟩

/-! ## LFC.EQ, LFC.MIN and LFC.MAX (R157 to R159, R177) -/

theorem LfcState.eq_iff {a b : LfcState} : a = b ↔ a.x = b.x ∧ a.i = b.i ∧ a.carry = b.carry := by
  cases a
  cases b
  simp

theorem exec_lfcEq_eq {s : State} {p : Pending} (hp : s.pend = some p) (h0 : s.lfc.i0.seeded = true)
    (h1 : s.lfc.i1.seeded = true) :
    exec .lfcEq s = .next (s.answered (boolRes (decide (s.lfc.i0.st = s.lfc.i1.st)))) :=
  exec_lfcEq_pending hp (performable_free (by simp [issueCheck, h0, h1]) rfl)

/-- R177: for every width up to 64, `2^w − 1` fits RES. -/
theorem zext128_max_toNat {w : Nat} (hw : w ≤ 64) : (zext128 (2 ^ w - 1)).toNat = 2 ^ w - 1 := by
  have : 2 ^ w ≤ 2 ^ 64 := Nat.pow_le_pow_right (by decide) hw
  rw [zext128, BitVec.toNat_ofNat, Nat.mod_eq_of_lt (by omega)]

/-- Settles O39: equality of the states is equality of their triples, and the largest word fits RES. -/
theorem lfcEqMinMax : Obligations.LfcEqMinMax := by
  refine ⟨by decide, by decide, by decide, fun s hidle => ⟨fun h0 h1 => ?_, fun h => ?_⟩,
    fun s hidle => exec_issues hidle rfl rfl, fun s hidle => exec_issues hidle rfl rfl,
    fun s p hp => ⟨fun h0 h1 => ⟨fun heq => ?_, fun hne => ?_⟩, ?_, fun hwf => ?_⟩⟩
  · exact exec_issues hidle (by simp [issueCheck, h0, h1]) rfl
  · have hboth : (s.lfc.i0.seeded && s.lfc.i1.seeded) = false := Bool.and_eq_false_iff.mpr h
    exact exec_raises hidle (by simp [issueCheck, hboth])
  · rw [exec_lfcEq_eq hp h0 h1, decide_eq_true (LfcState.eq_iff.mpr heq)]
    rfl
  · rw [exec_lfcEq_eq hp h0 h1, decide_eq_false (mt LfcState.eq_iff.mp hne)]
    rfl
  · exact exec_lfcMin_pending hp (performable_free rfl rfl)
  · obtain ⟨⟨-, hw⟩, -⟩ := Config.wf_iff.mp hwf
    exact ⟨_, zext128_max_toNat hw, exec_lfcMax_pending hp (performable_free rfl rfl)⟩

end Sys2Proof.Machine
end

section
/-! PROOFS. Seeding (40_lfc.md R141 to R145): the seed words of an integer seed, and their packing into the slots. -/

namespace Sys2Proof.Machine

/-! ## The seed words (R141 to R143) -/

/-- The word that an LCG step outputs is the new state, which fits 32 bits. -/
theorem lcgStep_word {g : Nat} (h1 : 1 ≤ g) (h2 : g ≤ 2147483562) :
    (BitVec.ofNat 32 (lcgStep g)).toNat = lcgStep g := by
  have hrange := lcgStep_range h1 h2
  rw [BitVec.toNat_ofNat, Nat.mod_eq_of_lt (by omega)]

/-- The m-th output is the state after m + 1 steps. -/
theorem lcgOutputs_getD {n g m : Nat} (h1 : 1 ≤ g) (h2 : g ≤ 2147483562) (hm : m < n) :
    ((lcgOutputs n g).getD m 0).toNat = lcgStep^[m + 1] g := by
  induction n generalizing g m with
  | zero => omega
  | succ n ih =>
    have hrange := lcgStep_range h1 h2
    cases m with
    | zero => simpa [lcgOutputs] using lcgStep_word h1 h2
    | succ m => rw [lcgOutputs, List.getD_cons_succ, ih hrange.1 hrange.2 (by omega), ← Function.iterate_succ_apply]

theorem lcgStep_iterate_range {g : Nat} (h1 : 1 ≤ g) (h2 : g ≤ 2147483562) (m : Nat) :
    1 ≤ lcgStep^[m] g ∧ lcgStep^[m] g ≤ 2147483562 := by
  induction m with
  | zero => exact ⟨h1, h2⟩
  | succ m ih => rw [Function.iterate_succ_apply']; exact lcgStep_range ih.1 ih.2

theorem lcgWords_length (c : Config) (sd : Nat) : (lcgWords c sd).length = c.rL * (c.wL / 32 + 1) :=
  lcgOutputs_length _ _

theorem lcgWords_getD {c : Config} {sd m : Nat} (hm : m < (lcgWords c sd).length) :
    ((lcgWords c sd).getD m 0).toNat = lcgStep^[m + 1] (lcgInit sd) := by
  have hrange := lcgInit_range sd
  exact lcgOutputs_getD hrange.1 hrange.2 (by rwa [lcgWords, lcgOutputs_length] at hm)

/-- Settles O33: the m-th word is the LCG's state after m + 1 steps. -/
theorem lcgWordsRule : Obligations.LcgWordsRule := by
  intro c sd
  have hrange := lcgInit_range sd
  refine ⟨lcgWords_length c sd, fun m hm => ?_, fun h0 => ?_, fun m hm => ?_, rfl⟩
  · rw [lcgWords_getD hm]
    exact lcgStep_iterate_range hrange.1 hrange.2 _
  · rw [lcgWords_getD h0]
    rfl
  · rw [lcgWords_getD hm, lcgWords_getD (by omega), Function.iterate_succ_apply']
    rfl

/-! ## Packing (R144, R145) -/

/-- Settles O34: each slot is its group's sum (`packGroups_getD`). -/
theorem packingRule : Obligations.PackingRule := fun _ _ hz =>
  ⟨packGroups_length .., fun _ hj => packGroups_getD hz hj, rfl, beq_iff_eq⟩

end Sys2Proof.Machine
end

section
/-! PROOFS. The LFC steps (40_lfc.md R146 to R149, R170, R171): what a forward step does to the words by their age, what
the walk of a backward step decides, and that the forward step undoes the backward step. -/

namespace Sys2Proof.Machine

variable {c : Config} {st : LfcState}

/-! ## Indexes -/

theorem lags_of_wf (hc : c.wf = true) : 1 ≤ c.sL ∧ c.sL < c.rL := by
  obtain ⟨-, hlags, -⟩ := Config.wf_iff.mp hc
  exact hlags

theorem LfcState.index_lt (h : st.wf c = true) : st.i < c.rL := by
  obtain ⟨-, -, hi⟩ := LfcState.wf_iff.mp h
  exact hi

theorem LfcState.index_lt_length (h : st.wf c = true) : st.i < st.x.length := by
  obtain ⟨hlen, -, hi⟩ := LfcState.wf_iff.mp h
  omega

theorem lfcPrev_eq {a d : Nat} (ha : a < c.rL) (hd : d ≤ c.rL) :
    lfcPrev c a d = if d ≤ a then a - d else a + c.rL - d := by
  unfold lfcPrev
  split
  · rw [Nat.sub_add_comm ‹d ≤ a›, Nat.add_mod_right, Nat.mod_eq_of_lt (by omega)]
  · rw [Nat.mod_eq_of_lt (by omega)]

theorem lfcPrev_lt {a : Nat} (ha : a < c.rL) (d : Nat) : lfcPrev c a d < c.rL := Nat.mod_lt _ (by omega)

theorem succ_mod_eq {i r : Nat} (hi : i < r) : (i + 1) % r = if i + 1 = r then 0 else i + 1 := by
  split
  next h => rw [h, Nat.mod_self]
  · exact Nat.mod_eq_of_lt (by omega)

theorem lfcPrev_zero {a : Nat} (ha : a < c.rL) : lfcPrev c a 0 = a := by
  rw [lfcPrev_eq ha (by omega), if_pos (Nat.zero_le a), Nat.sub_zero]

/-- Moving on by one and one more step back. -/
theorem lfcPrev_succ {a d : Nat} (ha : a < c.rL) (hd : d < c.rL) :
    lfcPrev c ((a + 1) % c.rL) (d + 1) = lfcPrev c a d := by
  rw [lfcPrev_eq (Nat.mod_lt _ (by omega)) (by omega), lfcPrev_eq ha (by omega), succ_mod_eq ha]
  split_ifs <;> omega

theorem lfcPrev_lfcPrev {a d e : Nat} (ha : a < c.rL) (h : d + e ≤ c.rL) :
    lfcPrev c (lfcPrev c a d) e = lfcPrev c a (d + e) := by
  rw [lfcPrev_eq (lfcPrev_lt ha d) (by omega), lfcPrev_eq ha (by omega : d ≤ c.rL), lfcPrev_eq ha h]
  split_ifs <;> omega

/-- One step back and on again. -/
theorem lfcPrev_one_succ {a : Nat} (ha : a < c.rL) : (lfcPrev c a 1 + 1) % c.rL = a := by
  rw [succ_mod_eq (lfcPrev_lt ha 1), lfcPrev_eq ha (by omega)]
  split_ifs <;> omega

theorem lfcPrev_ne {a d : Nat} (ha : a < c.rL) (h1 : 1 ≤ d) (hd : d < c.rL) : lfcPrev c a d ≠ a := by
  rw [lfcPrev_eq ha (by omega)]
  split_ifs <;> omega

theorem lfcShort_eq {i : Nat} (hi : i < c.rL) (hs : c.sL < c.rL) : lfcShort c i = lfcPrev c i c.sL := by
  rw [lfcShort, lfcPrev_eq hi (by omega)]
  split_ifs <;> omega

/-! ## Words by age -/

/-- The word that the step `d` steps ago wrote, for `1 ≤ d ≤ r`. -/
def LfcState.ago (c : Config) (st : LfcState) (d : Nat) : Nat := st.slot (lfcPrev c st.i d)

theorem LfcState.ago_lt (h : st.wf c = true) (d : Nat) : st.ago c d < 2 ^ c.wL := LfcState.slot_lt h _

/-- The word that the next step overwrites is the oldest. -/
theorem LfcState.slot_index (h : st.wf c = true) : st.slot st.i = st.ago c c.rL := by
  have hi := LfcState.index_lt h
  have hprev : lfcPrev c st.i c.rL = st.i := by
    rw [lfcPrev_eq hi (by omega), if_neg (by omega), Nat.add_sub_cancel]
  rw [LfcState.ago, hprev]

theorem getD_set_self {l : List Nat} {i : Nat} (hi : i < l.length) (y : Nat) : (l.set i y).getD i 0 = y := by
  simp [hi]

theorem getD_set_ne {l : List Nat} {i j : Nat} (h : j ≠ i) (y : Nat) : (l.set i y).getD j 0 = l.getD j 0 := by
  simp [Ne.symm h]

theorem set_getD_self {l : List Nat} {i : Nat} (hi : i < l.length) : l.set i (l.getD i 0) = l := by
  simp [hi]

/-! ## The forward step (R146, R147) -/

theorem lfcFwd_slot_index (h : st.wf c = true) : (lfcFwd c st).2.slot st.i = (lfcFwd c st).1 :=
  getD_set_self (LfcState.index_lt_length h) _

theorem lfcFwd_fst_lt (h : st.wf c = true) : (lfcFwd c st).1 < 2 ^ c.wL := by
  rw [← lfcFwd_slot_index h]
  exact LfcState.slot_lt (lfcFwd_wf h) st.i

theorem lfcFwd_ago_one (h : st.wf c = true) : (lfcFwd c st).2.ago c 1 = (lfcFwd c st).1 := by
  have hi := LfcState.index_lt h
  rw [← lfcFwd_slot_index h, LfcState.ago, show (lfcFwd c st).2.i = (st.i + 1) % c.rL from rfl,
    lfcPrev_succ hi (by omega), lfcPrev_zero hi]

/-- A forward step makes every word it keeps one step older. -/
theorem lfcFwd_ago_succ (h : st.wf c = true) {d : Nat} (h1 : 1 ≤ d) (hd : d < c.rL) :
    (lfcFwd c st).2.ago c (d + 1) = st.ago c d := by
  have hi := LfcState.index_lt h
  rw [LfcState.ago, show (lfcFwd c st).2.i = (st.i + 1) % c.rL from rfl, lfcPrev_succ hi hd]
  exact getD_set_ne (lfcPrev_ne hi h1 hd) _

/-- The subtraction of R146 without its case split: the borrow is the new carry. -/
theorem lfcFwd_balance (hc : c.wf = true) (h : st.wf c = true) :
    (lfcFwd c st).1 + st.ago c c.rL + st.carry.toNat =
      st.ago c c.sL + 2 ^ c.wL * (lfcFwd c st).2.carry.toNat := by
  have hs := lags_of_wf hc
  have hold := LfcState.ago_lt h c.rL
  have hcarry := st.carry.toNat_le
  have hlag : st.slot (lfcShort c st.i) = st.ago c c.sL :=
    congrArg st.slot (lfcShort_eq (LfcState.index_lt h) hs.2)
  simp only [lfcFwd, hlag, LfcState.slot_index h, Config.modL]
  by_cases hle : st.ago c c.rL + st.carry.toNat ≤ st.ago c c.sL
  · simp only [hle, if_true, decide_true, Bool.not_true, Bool.toNat_false]
    omega
  · simp only [hle, if_false, decide_false, Bool.not_false, Bool.toNat_true]
    omega

/-- A word and a borrow that balance the subtraction are the forward step's. -/
theorem lfcFwd_eq_of_balance (hc : c.wf = true) (h : st.wf c = true) {y : Nat} {b : Bool} (hy : y < 2 ^ c.wL)
    (hbal : y + st.ago c c.rL + st.carry.toNat = st.ago c c.sL + 2 ^ c.wL * b.toNat) :
    lfcFwd c st = (y, { x := st.x.set st.i y, i := (st.i + 1) % c.rL, carry := b }) := by
  have hstep := lfcFwd_balance hc h
  have hlt := lfcFwd_fst_lt h
  have hboth : (lfcFwd c st).1 = y ∧ (lfcFwd c st).2.carry = b := by
    generalize (lfcFwd c st).2.carry = b' at hstep ⊢
    cases b <;> cases b' <;> simp only [Bool.toNat_false, Bool.toNat_true] at hbal hstep
    case false.false | true.true => exact ⟨by omega, rfl⟩
    all_goals omega
  rw [← hboth.1, ← hboth.2]
  rfl

/-! ## The predecessor test (R148) -/

/-- The exact sum of R148 with the carry as a condition. -/
theorem lfcBackSum_eq (c : Config) (st : LfcState) :
    lfcBackSum c st = (st.slot (lfcPrev c (lfcPrev c st.i 1) c.sL) : Int) - (st.slot (lfcPrev c st.i 1) : Int) +
      (if st.carry then 2 ^ c.wL else 0) := by
  cases hcarry : st.carry <;> simp [lfcBackSum, hcarry]

theorem lfcBackSum_eq_ago (hc : c.wf = true) (h : st.wf c = true) :
    lfcBackSum c st = (st.ago c (c.sL + 1) : Int) - (st.ago c 1 : Int) + ((2 ^ c.wL * st.carry.toNat : Nat) : Int) := by
  have hs := lags_of_wf hc
  rw [lfcBackSum, lfcPrev_lfcPrev (LfcState.index_lt h) (by omega), Nat.add_comm 1, Nat.cast_mul, mul_comm]
  rfl

/-- After a forward step the sum is what the step subtracted. -/
theorem lfcBackSum_lfcFwd (hc : c.wf = true) (h : st.wf c = true) :
    lfcBackSum c (lfcFwd c st).2 = ((st.ago c c.rL + st.carry.toNat : Nat) : Int) := by
  have hs := lags_of_wf hc
  have hbal := lfcFwd_balance hc h
  rw [lfcBackSum_eq_ago hc (lfcFwd_wf h), lfcFwd_ago_one h, lfcFwd_ago_succ h hs.1 hs.2]
  omega

theorem lfcHasPred_lfcFwd (hc : c.wf = true) (h : st.wf c = true) : lfcHasPred c (lfcFwd c st).2 = true := by
  have hlt := LfcState.ago_lt h c.rL
  have hle := st.carry.toNat_le
  rw [lfcHasPred_iff, lfcBackSum_lfcFwd hc h]
  omega

/-! ## The backward step (R149) -/

theorem lfcBack_of_hasPred (h : lfcHasPred c st = true) :
    lfcBack c st = some (st.slot (lfcPrev c st.i 1),
      { x := st.x.set (lfcPrev c st.i 1)
          (lfcBackSum c st - (lfcBackCarry c st (lfcPrev c st.i 1) (lfcBackSum c st)).toNat).toNat
        i := lfcPrev c st.i 1, carry := lfcBackCarry c st (lfcPrev c st.i 1) (lfcBackSum c st) }) := if_pos h

theorem lfcBackCarry_zero (i : Nat) : lfcBackCarry c st i 0 = false := if_pos rfl

theorem lfcBackCarry_top (i : Nat) : lfcBackCarry c st i ((2 ^ c.wL : Nat) : Int) = true := by
  have hpos : 0 < 2 ^ c.wL := by positivity
  unfold lfcBackCarry
  rw [if_neg (by omega), if_pos rfl]

theorem lfcBackCarry_of_walk {i : Nat} {t : Int} {cp : Bool} (h0 : t ≠ 0) (hM : t ≠ ((2 ^ c.wL : Nat) : Int))
    (hw : lfcWalk c st i (c.rL - c.sL - 1) 1 = some cp) : lfcBackCarry c st i t = cp := by
  unfold lfcBackCarry
  rw [if_neg h0, if_neg hM, hw]

theorem lfcBackCarry_of_exhausted {i : Nat} {t : Int} (h0 : t ≠ 0) (hM : t ≠ ((2 ^ c.wL : Nat) : Int))
    (hw : lfcWalk c st i (c.rL - c.sL - 1) 1 = none) :
    lfcBackCarry c st i t = decide (t ≤ st.slot ((i + c.sL) % c.rL)) := by
  unfold lfcBackCarry
  rw [if_neg h0, if_neg hM, hw]

/-- The slot that a backward step restores and its carry are the sum: the carry is 1 only if the sum is positive. -/
theorem lfcBackSum_split (h : lfcHasPred c st = true) (i : Nat) :
    lfcBackSum c st =
      (((lfcBackSum c st - (lfcBackCarry c st i (lfcBackSum c st)).toNat).toNat +
        (lfcBackCarry c st i (lfcBackSum c st)).toNat : Nat) : Int) := by
  obtain ⟨h0, -⟩ := lfcHasPred_iff.mp h
  have hle := (lfcBackCarry c st i (lfcBackSum c st)).toNat_le
  rcases eq_or_ne (lfcBackSum c st) 0 with hz | hz
  · rw [hz, lfcBackCarry_zero]
    rfl
  · omega

/-- Settles O40: the bounds of the two steps' states are the invariant's, and each output is a slot. -/
theorem lfcRange : Obligations.LfcRange := by
  refine fun c st _ h => ⟨lfcFwd_fst_lt h, lfcFwd_wf h, fun y st' hback => ⟨?_, lfcBack_wf h hback⟩⟩
  obtain ⟨-, rfl, -⟩ := lfcBack_eq_some hback
  exact LfcState.slot_lt h _

/-- The forward step undoes a backward step: the output and the carry it undid balance the subtraction. -/
theorem lfcFwd_lfcBack (hc : c.wf = true) (h : st.wf c = true) {y : Nat} {st' : LfcState}
    (hback : lfcBack c st = some (y, st')) : lfcFwd c st' = (y, st) := by
  have hs := lags_of_wf hc
  have hi := LfcState.index_lt h
  have hwf' := lfcBack_wf h hback
  obtain ⟨hpred, rfl, cp, hcp, hst'⟩ := lfcBack_eq_some hback
  have hsum := lfcBackSum_eq_ago hc h
  rw [lfcBackSum_split hpred (lfcPrev c st.i 1), ← hcp] at hsum
  generalize (lfcBackSum c st - cp.toNat).toNat = v at hsum hst'
  subst hst'
  have hlen : lfcPrev c st.i 1 < st.x.length := by
    have := lfcPrev_lt hi 1
    have := (LfcState.wf_iff.mp h).1
    omega
  have hshort : lfcPrev c (lfcPrev c st.i 1) c.sL = lfcPrev c st.i (c.sL + 1) := by
    rw [lfcPrev_lfcPrev hi (by omega), Nat.add_comm]
  have hold : LfcState.ago c ⟨st.x.set (lfcPrev c st.i 1) v, lfcPrev c st.i 1, cp⟩ c.rL = v := by
    rw [← LfcState.slot_index hwf']
    exact getD_set_self hlen v
  have hlag : LfcState.ago c ⟨st.x.set (lfcPrev c st.i 1) v, lfcPrev c st.i 1, cp⟩ c.sL = st.ago c (c.sL + 1) :=
    (getD_set_ne (lfcPrev_ne (lfcPrev_lt hi 1) hs.1 hs.2) v).trans (congrArg st.slot hshort)
  have hbal : st.ago c 1 + v + cp.toNat = st.ago c (c.sL + 1) + 2 ^ c.wL * st.carry.toNat := by omega
  rw [← hold, ← hlag] at hbal
  rw [lfcFwd_eq_of_balance hc hwf' (LfcState.ago_lt h 1) hbal, List.set_set, LfcState.ago, set_getD_self hlen,
    lfcPrev_one_succ hi]

/-- Settles O41: the output that a backward step undoes balances the subtraction again. -/
theorem forwardUndoesBackward : Obligations.ForwardUndoesBackward := fun _ _ _ _ hc h => lfcFwd_lfcBack hc h

/-- Settles O43: a state with a predecessor is the forward step of its backward step, and after a forward step the sum
is within its bounds. -/
theorem predecessorTest : Obligations.PredecessorTest := by
  refine fun c st hc h => ⟨?_, fun hpred => ?_, ?_⟩
  · simp only [lfcHasPred_iff, lfcBackSum_eq, Nat.cast_pow, Nat.cast_ofNat]
    rfl
  · have hback := lfcBack_of_hasPred hpred
    exact ⟨_, lfcBack_wf h hback, congrArg Prod.snd (lfcFwd_lfcBack hc h hback)⟩
  · rintro ⟨st0, h0, rfl⟩
    exact lfcHasPred_lfcFwd hc h0

/-! ## The walk (R149) -/

/-- The word that the walk looks at, at distance `d`. -/
abbrev walkWord (c : Config) (st : LfcState) (i d : Nat) : Nat := st.slot (lfcPrev c i d)

/-- The word one short lag before it, which the walk compares it with. -/
abbrev walkLag (c : Config) (st : LfcState) (i d : Nat) : Nat := st.slot (lfcPrev c (lfcPrev c i d) c.sL)

/-- What the walk answers: nothing if the words agree at all its distances, else the sign at the first where they
differ. -/
theorem lfcWalk_cases (c : Config) (st : LfcState) (i fuel d : Nat) :
    (lfcWalk c st i fuel d = none ∧ ∀ e, d ≤ e → e < d + fuel → walkWord c st i e = walkLag c st i e) ∨
    ∃ e, d ≤ e ∧ e < d + fuel ∧ walkWord c st i e ≠ walkLag c st i e ∧
      (∀ e', d ≤ e' → e' < e → walkWord c st i e' = walkLag c st i e') ∧
      lfcWalk c st i fuel d = some (decide (walkLag c st i e < walkWord c st i e)) := by
  induction fuel generalizing d with
  | zero => exact .inl ⟨rfl, fun e h1 h2 => by omega⟩
  | succ fuel ih =>
    by_cases heq : walkWord c st i d = walkLag c st i d
    · have hstep : lfcWalk c st i (fuel + 1) d = lfcWalk c st i fuel (d + 1) := if_pos heq
      rw [hstep]
      rcases ih (d + 1) with ⟨hnone, hall⟩ | ⟨e, h1, h2, hne, hbefore, hsome⟩
      · exact .inl ⟨hnone, fun e h1 h2 =>
          (Nat.eq_or_lt_of_le h1).elim (fun h => h ▸ heq) fun h => hall e h (by omega)⟩
      · exact .inr ⟨e, by omega, by omega, hne, fun e' h1' h2' =>
          (Nat.eq_or_lt_of_le h1').elim (fun h => h ▸ heq) fun h => hbefore e' h h2', hsome⟩
    · exact .inr ⟨d, le_rfl, by omega, heq, fun e' h1 h2 => by omega, if_neg heq⟩

theorem lfcWalk_of_agree {i fuel d : Nat}
    (h : ∀ e, d ≤ e → e < d + fuel → walkWord c st i e = walkLag c st i e) : lfcWalk c st i fuel d = none := by
  rcases lfcWalk_cases c st i fuel d with ⟨hnone, -⟩ | ⟨e, h1, h2, hne, -⟩
  · exact hnone
  · exact absurd (h e h1 h2) hne

theorem lfcWalk_of_differ {i fuel d e : Nat} (h1 : d ≤ e) (h2 : e < d + fuel)
    (hne : walkWord c st i e ≠ walkLag c st i e)
    (hbefore : ∀ e', d ≤ e' → e' < e → walkWord c st i e' = walkLag c st i e') :
    lfcWalk c st i fuel d = some (decide (walkLag c st i e < walkWord c st i e)) := by
  rcases lfcWalk_cases c st i fuel d with ⟨-, hall⟩ | ⟨e₀, h1₀, -, hne₀, hbefore₀, hsome⟩
  · exact absurd (hall e h1 h2) hne
  · rcases Nat.lt_trichotomy e e₀ with hlt | rfl | hlt
    · exact absurd (hbefore₀ e h1 hlt) hne
    · exact hsome
    · exact absurd (hbefore e₀ h1₀ hlt) hne₀

/-- Settles O37: the carry is `lfcBackCarry`, case by case. -/
theorem backwardStepRule : Obligations.BackwardStepRule := by
  intro c st hc h hpred i y t fwd ref
  have ht : lfcBackSum c st = t := lfcBackSum_eq c st
  have hM : ((2 ^ c.wL : Nat) : Int) = 2 ^ c.wL := by push_cast; rfl
  refine ⟨lfcBackCarry c st i t, ?_, fun h0 => ?_, fun htop => ?_, fun h0 htop => ⟨?_, ?_⟩⟩
  · rw [lfcBack_of_hasPred hpred, ht]
    have hcp : ∀ b : Bool, (b.toNat : Int) = if b then 1 else 0 := by decide
    rw [← hcp]
    rfl
  · rw [h0]
    exact lfcBackCarry_zero i
  · rw [htop, ← hM]
    exact lfcBackCarry_top i
  · intro d h1 hd hne hbefore
    have hw := lfcWalk_of_differ (c := c) (st := st) (i := i) (fuel := c.rL - c.sL - 1) h1 (by omega) hne hbefore
    rw [lfcBackCarry_of_walk h0 (hM ▸ htop) hw]
    exact decide_eq_true_iff
  · intro hall
    have hw := lfcWalk_of_agree (c := c) (st := st) (i := i) (fuel := c.rL - c.sL - 1) (d := 1)
      fun e h1 h2 => hall e h1 (by omega)
    rw [lfcBackCarry_of_exhausted h0 (hM ▸ htop) hw]
    exact decide_eq_true_iff

end Sys2Proof.Machine
end

section
/-! PROOFS. The LFC states that a corrected construction reaches (40_lfc.md R151, R171, R175, R176): after r forward
steps from any state the backward step takes the right carry, so the forward step is injective from there on, and every
such state lies on a cycle. -/

namespace Sys2Proof.Machine

variable {c : Config} {st : LfcState}

/-- A short lag on is the rest of the long lag back. -/
theorem lfcPrev_long {a : Nat} (hs : c.sL ≤ c.rL) : (a + c.sL) % c.rL = lfcPrev c a (c.rL - c.sL) := by
  rw [lfcPrev, show a + c.rL - (c.rL - c.sL) = a + c.sL by omega]

/-! ## The words of a run of forward steps -/

theorem lfcFwdN_succ_last (c : Config) (n : Nat) (st : LfcState) :
    lfcFwdN c (n + 1) st = (lfcFwd c (lfcFwdN c n st)).2 := Function.iterate_succ_apply' _ n st

theorem lfcFwdN_add (c : Config) (m n : Nat) (st : LfcState) :
    lfcFwdN c (m + n) st = lfcFwdN c m (lfcFwdN c n st) := Function.iterate_add_apply _ m n st

/-- The word that step `j` of a run overwrites: first the `r` words of the initial state, oldest first, then the
outputs. -/
def lfcWord (c : Config) (st : LfcState) (j : Nat) : Nat := (lfcFwdN c j st).ago c c.rL

/-- The carry that step `j` of a run takes. -/
def lfcCarry (c : Config) (st : LfcState) (j : Nat) : Bool := (lfcFwdN c j st).carry

theorem lfcWord_add (c : Config) (st : LfcState) (j m : Nat) :
    lfcWord c st (j + m) = lfcWord c (lfcFwdN c m st) j := by
  rw [lfcWord, lfcFwdN_add, lfcWord]

theorem lfcWord_lt (h : st.wf c = true) (j : Nat) : lfcWord c st j < 2 ^ c.wL :=
  LfcState.ago_lt (lfcFwdN_wf j h) c.rL

/-- A word is overwritten when it is the oldest. -/
theorem lfcFwdN_ago (h : st.wf c = true) {e : Nat} (he : e < c.rL) (k : Nat) :
    (lfcFwdN c k st).ago c (c.rL - e) = lfcWord c st (k + e) := by
  induction e generalizing k with
  | zero => rfl
  | succ e ih =>
    have hage : c.rL - e = c.rL - (e + 1) + 1 := by omega
    have hstep := ih (by omega) (k + 1)
    rw [hage, lfcFwdN_succ_last, lfcFwd_ago_succ (lfcFwdN_wf k h) (by omega) (by omega)] at hstep
    rw [hstep, Nat.add_right_comm, Nat.add_assoc]

/-- The output of step `k` is overwritten `r` steps later. -/
theorem lfcFwdN_output (h : st.wf c = true) (k : Nat) :
    (lfcFwd c (lfcFwdN c k st)).1 = lfcWord c st (k + c.rL) := by
  have hi := LfcState.index_lt h
  have hwf := lfcFwdN_wf k h
  have hage := lfcFwdN_ago h (e := c.rL - 1) (by omega) (k + 1)
  rw [show c.rL - (c.rL - 1) = 1 by omega, show k + 1 + (c.rL - 1) = k + c.rL by omega, lfcFwdN_succ_last,
    lfcFwd_ago_one hwf] at hage
  exact hage

/-- R146 along a run, as one equation. -/
theorem lfcWord_balance (hc : c.wf = true) (h : st.wf c = true) (k : Nat) :
    lfcWord c st (k + c.rL) + lfcWord c st k + (lfcCarry c st k).toNat =
      lfcWord c st (k + (c.rL - c.sL)) + 2 ^ c.wL * (lfcCarry c st (k + 1)).toNat := by
  have hs := lags_of_wf hc
  have hlag := lfcFwdN_ago h (e := c.rL - c.sL) (by omega) k
  rw [show c.rL - (c.rL - c.sL) = c.sL by omega] at hlag
  have hbal := lfcFwd_balance hc (lfcFwdN_wf k h)
  rwa [lfcFwdN_output h, hlag, ← lfcFwdN_succ_last] at hbal

/-! ## What the words say about the carry -/

/-- The word that keeps a carry as it is: 0 with the carry 0, `2^w − 1` with the carry 1. -/
def stuckWord (c : Config) (b : Bool) : Nat := (2 ^ c.wL - 1) * b.toNat

@[simp] theorem stuckWord_false (c : Config) : stuckWord c false = 0 := Nat.mul_zero _

@[simp] theorem stuckWord_true (c : Config) : stuckWord c true = 2 ^ c.wL - 1 := Nat.mul_one _

section Run

variable (hc : c.wf = true) (h : st.wf c = true)
include hc h

/-- An output above the lagged word left a borrow. -/
theorem lfcCarry_of_lt {k : Nat} (hlt : lfcWord c st (k + (c.rL - c.sL)) < lfcWord c st (k + c.rL)) :
    lfcCarry c st (k + 1) = true := by
  have hbal := lfcWord_balance hc h k
  by_contra hno
  rw [Bool.not_eq_true] at hno
  rw [hno, Bool.toNat_false] at hbal
  omega

/-- An output below the lagged word left none. -/
theorem lfcCarry_of_gt {k : Nat} (hgt : lfcWord c st (k + c.rL) < lfcWord c st (k + (c.rL - c.sL))) :
    lfcCarry c st (k + 1) = false := by
  have hbal := lfcWord_balance hc h k
  have hword := lfcWord_lt h k
  have hle := (lfcCarry c st k).toNat_le
  by_contra hno
  rw [Bool.not_eq_false] at hno
  rw [hno, Bool.toNat_true] at hbal
  omega

/-- An output equal to the lagged word left the carry as it was, and overwrote the word that does so. -/
theorem lfcWord_of_agree {k : Nat} (heq : lfcWord c st (k + c.rL) = lfcWord c st (k + (c.rL - c.sL))) :
    lfcCarry c st k = lfcCarry c st (k + 1) ∧ lfcWord c st k = stuckWord c (lfcCarry c st (k + 1)) := by
  have hbal := lfcWord_balance hc h k
  have hword := lfcWord_lt h k
  cases hk : lfcCarry c st k <;> cases hk' : lfcCarry c st (k + 1) <;>
    simp only [hk, hk', Bool.toNat_false, Bool.toNat_true] at hbal
  case false.false => exact ⟨rfl, by rw [stuckWord_false]; omega⟩
  case true.true => exact ⟨rfl, by rw [stuckWord_true]; omega⟩
  all_goals omega

/-- A step whose lagged word is the stuck word of its new carry outputs that word. -/
theorem lfcWord_of_stuck {k : Nat}
    (hlag : lfcWord c st (k + (c.rL - c.sL)) = stuckWord c (lfcCarry c st (k + 1))) :
    lfcWord c st (k + c.rL) = lfcWord c st (k + (c.rL - c.sL)) := by
  have hbal := lfcWord_balance hc h k
  have hold := lfcWord_lt h k
  have hnew := lfcWord_lt h (k + c.rL)
  have hle := (lfcCarry c st k).toNat_le
  rw [hlag]
  cases hk' : lfcCarry c st (k + 1) <;> simp only [hlag, hk', Bool.toNat_false, Bool.toNat_true, stuckWord_false,
    stuckWord_true] at hbal ⊢ <;> omega

/-- Outputs that agree with their lagged words leave the carry as it was. -/
theorem lfcCarry_of_agree {n e : Nat} (h1 : 1 ≤ e) (hn : e ≤ n)
    (hagree : ∀ d, 1 ≤ d → d < e → lfcWord c st (n - d + c.rL) = lfcWord c st (n - d + (c.rL - c.sL))) :
    lfcCarry c st (n - e + 1) = lfcCarry c st n := by
  induction e, h1 using Nat.le_induction with
  | base => rw [Nat.sub_add_cancel hn]
  | succ e h1 ih =>
    rw [show n - (e + 1) + 1 = n - e by omega,
      (lfcWord_of_agree hc h (hagree e h1 (by omega))).1, ih (by omega) fun d hd he => hagree d hd (by omega)]

/-- If the last `r − s` outputs before step `n` agree with their lagged words, so do the last `r`: each of the earlier
ones has for its lagged word the stuck word that a later one overwrote. -/
theorem agree_spreads {n : Nat} (hn : c.rL ≤ n)
    (hagree : ∀ d, 1 ≤ d → d ≤ c.rL - c.sL → lfcWord c st (n - d + c.rL) = lfcWord c st (n - d + (c.rL - c.sL)))
    {d : Nat} (h1 : 1 ≤ d) (hd : d ≤ c.rL) :
    lfcWord c st (n - d + c.rL) = lfcWord c st (n - d + (c.rL - c.sL)) := by
  induction d using Nat.strong_induction_on with
  | _ d ih =>
    have hs := lags_of_wf hc
    rcases Nat.lt_or_ge (c.rL - c.sL) d with hfar | hnear
    · have hcarry : ∀ e, 1 ≤ e → e ≤ d → lfcCarry c st (n - e + 1) = lfcCarry c st n := fun e he hed =>
        lfcCarry_of_agree hc h he (by omega) fun d' h1' hd' => ih d' (by omega) h1' (by omega)
      have hlater := lfcWord_of_agree hc h (ih (d - (c.rL - c.sL)) (by omega) (by omega) (by omega))
      refine lfcWord_of_stuck hc h ?_
      rw [show n - d + (c.rL - c.sL) = n - (d - (c.rL - c.sL)) by omega, hlater.2, hcarry d h1 le_rfl,
        hcarry (d - (c.rL - c.sL)) (by omega) (by omega)]
    · exact hagree d h1 hnear

/-- Then step `n` overwrites the stuck word of the carry it takes. -/
theorem stuck_oldest {n : Nat} (hn : c.rL ≤ n)
    (hagree : ∀ d, 1 ≤ d → d ≤ c.rL - c.sL → lfcWord c st (n - d + c.rL) = lfcWord c st (n - d + (c.rL - c.sL))) :
    lfcWord c st n = stuckWord c (lfcCarry c st n) := by
  have hs := lags_of_wf hc
  have hfirst := agree_spreads hc h hn hagree (d := c.rL) (by omega) le_rfl
  have hshort := lfcWord_of_agree hc h (agree_spreads hc h hn hagree hs.1 (by omega))
  have hcarry : lfcCarry c st (n - c.sL + 1) = lfcCarry c st n :=
    lfcCarry_of_agree hc h hs.1 (by omega) fun d h1 hd => agree_spreads hc h hn hagree h1 (by omega)
  rw [Nat.sub_add_cancel hn, show n - c.rL + (c.rL - c.sL) = n - c.sL by omega] at hfirst
  rw [hfirst, hshort.2, hcarry]

/-- The first difference on the way back is the last borrow (R149). -/
theorem carry_of_differ {n e : Nat} (h1 : 1 ≤ e) (hn : e ≤ n)
    (hne : lfcWord c st (n - e + c.rL) ≠ lfcWord c st (n - e + (c.rL - c.sL)))
    (hagree : ∀ d, 1 ≤ d → d < e → lfcWord c st (n - d + c.rL) = lfcWord c st (n - d + (c.rL - c.sL))) :
    lfcCarry c st n = decide (lfcWord c st (n - e + (c.rL - c.sL)) < lfcWord c st (n - e + c.rL)) := by
  rw [← lfcCarry_of_agree hc h h1 hn hagree]
  rcases Nat.lt_or_gt_of_ne hne with hgt | hlt
  · rw [lfcCarry_of_gt hc h hgt, decide_eq_false (by omega)]
  · rw [lfcCarry_of_lt hc h hlt, decide_eq_true hlt]

/-- Without a difference the carry is that of step `n − (r − s) + 1`, whose lagged word step `n` overwrites; that they
agree too is excluded, for then the sum would be 0 or `2^w` (R149). -/
theorem carry_of_exhausted {n : Nat} (hn : c.rL ≤ n) (h0 : lfcWord c st n + (lfcCarry c st n).toNat ≠ 0)
    (hM : lfcWord c st n + (lfcCarry c st n).toNat ≠ 2 ^ c.wL)
    (hagree : ∀ d, 1 ≤ d → d < c.rL - c.sL →
      lfcWord c st (n - d + c.rL) = lfcWord c st (n - d + (c.rL - c.sL))) :
    lfcCarry c st n = decide (lfcWord c st n + (lfcCarry c st n).toNat ≤ lfcWord c st (n + c.sL)) := by
  have hs := lags_of_wf hc
  have hlast : n - (c.rL - c.sL) + c.rL = n + c.sL := by omega
  have hlag : n - (c.rL - c.sL) + (c.rL - c.sL) = n := by omega
  have hne : lfcWord c st (n + c.sL) ≠ lfcWord c st n := fun heq => by
    have hstuck := stuck_oldest hc h hn fun d h1 hd => by
      rcases Nat.eq_or_lt_of_le hd with rfl | hlt
      · rw [hlast, hlag, heq]
      · exact hagree d h1 hlt
    have hpos : 0 < 2 ^ c.wL := by positivity
    cases hk : lfcCarry c st n <;>
      simp only [hk, stuckWord_false, stuckWord_true, Bool.toNat_false, Bool.toNat_true] at hstuck h0 hM <;> omega
  have hdiffer := carry_of_differ hc h (e := c.rL - c.sL) (by omega) (by omega) (by rwa [hlast, hlag]) hagree
  rw [hlast, hlag] at hdiffer
  rw [hdiffer]
  refine decide_eq_decide.mpr ⟨fun hlt => ?_, fun hle => ?_⟩
  · rw [decide_eq_true hlt, Bool.toNat_true]
    omega
  · omega

end Run

/-! ## The backward step undoes the forward step -/

section Walk

variable {u : LfcState} {n : Nat} (h : st.wf c = true) (hu : lfcFwdN c (n + 1) st = u)
include h hu

/-- The words that the walk sees after step `n`. -/
theorem walkWord_fwdN {d : Nat} (h1 : 1 ≤ d) (hd : d < c.rL) (hn : d ≤ n) :
    walkWord c u (lfcPrev c u.i 1) d = lfcWord c st (n - d + c.rL) := by
  subst hu
  have hage := lfcFwdN_ago h (e := c.rL - (1 + d)) (by omega) (n + 1)
  rw [show c.rL - (c.rL - (1 + d)) = 1 + d by omega, show n + 1 + (c.rL - (1 + d)) = n - d + c.rL by omega] at hage
  rw [walkWord, lfcPrev_lfcPrev (LfcState.index_lt (lfcFwdN_wf (n + 1) h)) (by omega)]
  exact hage

theorem walkLag_fwdN {d : Nat} (h1 : 1 ≤ d) (hd : d < c.rL - c.sL) (hn : d ≤ n) :
    walkLag c u (lfcPrev c u.i 1) d = lfcWord c st (n - d + (c.rL - c.sL)) := by
  subst hu
  have hi := LfcState.index_lt (lfcFwdN_wf (n + 1) h)
  have hage := lfcFwdN_ago h (e := c.rL - (1 + d + c.sL)) (by omega) (n + 1)
  rw [show c.rL - (c.rL - (1 + d + c.sL)) = 1 + d + c.sL by omega,
    show n + 1 + (c.rL - (1 + d + c.sL)) = n - d + (c.rL - c.sL) by omega] at hage
  rw [walkLag, lfcPrev_lfcPrev (lfcPrev_lt hi 1) (by omega), lfcPrev_lfcPrev hi (by omega), ← Nat.add_assoc]
  exact hage

/-- The word that an exhausted walk looks at last. -/
theorem lastWord_fwdN (hc : c.wf = true) :
    u.slot ((lfcPrev c u.i 1 + c.sL) % c.rL) = lfcWord c st (n + c.sL) := by
  subst hu
  have hs := lags_of_wf hc
  have hi := LfcState.index_lt (lfcFwdN_wf (n + 1) h)
  have hage := lfcFwdN_ago h (e := c.sL - 1) (by omega) (n + 1)
  rw [show n + 1 + (c.sL - 1) = n + c.sL by omega, show c.rL - (c.sL - 1) = 1 + (c.rL - c.sL) by omega] at hage
  rw [lfcPrev_long (by omega), lfcPrev_lfcPrev hi (by omega)]
  exact hage

theorem lfcBackSum_fwdN (hc : c.wf = true) :
    lfcBackSum c u = ((lfcWord c st n + (lfcCarry c st n).toNat : Nat) : Int) := by
  rw [← hu, lfcFwdN_succ_last]
  exact lfcBackSum_lfcFwd hc (lfcFwdN_wf n h)

/-- From the r-th step of a run on, the carry that a backward step works out is the one that the step it undoes took. -/
theorem lfcBackCarry_fwdN (hc : c.wf = true) (hn : c.rL ≤ n) :
    lfcBackCarry c u (lfcPrev c u.i 1) (lfcBackSum c u) = lfcCarry c st n := by
  have hs := lags_of_wf hc
  have hlt := lfcWord_lt h n
  have hle := (lfcCarry c st n).toNat_le
  rw [lfcBackSum_fwdN h hu hc]
  by_cases h0 : lfcWord c st n + (lfcCarry c st n).toNat = 0
  · rw [h0, Nat.cast_zero, lfcBackCarry_zero]
    exact (Bool.toNat_eq_zero.mp (by omega)).symm
  by_cases hM : lfcWord c st n + (lfcCarry c st n).toNat = 2 ^ c.wL
  · rw [hM, lfcBackCarry_top]
    exact (Bool.toNat_eq_one.mp (by omega)).symm
  have hword : ∀ d, 1 ≤ d → d < c.rL - c.sL →
      walkWord c u (lfcPrev c u.i 1) d = lfcWord c st (n - d + c.rL) :=
    fun d h1 hd => walkWord_fwdN h hu h1 (by omega) (by omega)
  have hlag : ∀ d, 1 ≤ d → d < c.rL - c.sL →
      walkLag c u (lfcPrev c u.i 1) d = lfcWord c st (n - d + (c.rL - c.sL)) :=
    fun d h1 hd => walkLag_fwdN h hu h1 hd (by omega)
  rcases lfcWalk_cases c u (lfcPrev c u.i 1) (c.rL - c.sL - 1) 1 with
    ⟨hwalk, hagree⟩ | ⟨e, h1, he, hne, hagree, hwalk⟩
  · rw [lfcBackCarry_of_exhausted (by omega) (by omega) hwalk, lastWord_fwdN h hu hc]
    refine (decide_eq_decide.mpr Nat.cast_le).trans (carry_of_exhausted hc h hn h0 hM fun d h1 hd => ?_).symm
    rw [← hword d h1 hd, ← hlag d h1 hd]
    exact hagree d h1 (by omega)
  · rw [lfcBackCarry_of_walk (by omega) (by omega) hwalk]
    rw [hword e h1 (by omega), hlag e h1 (by omega)] at hne ⊢
    refine (carry_of_differ hc h h1 (by omega) hne fun d h1 hd => ?_).symm
    rw [← hword d h1 (by omega), ← hlag d h1 (by omega)]
    exact hagree d h1 hd

end Walk

/-- A backward step that works out the right carry undoes the forward step. -/
theorem lfcBack_lfcFwd_of_carry (hc : c.wf = true) (h : st.wf c = true)
    (hcarry : lfcBackCarry c (lfcFwd c st).2 (lfcPrev c (lfcFwd c st).2.i 1) (lfcBackSum c (lfcFwd c st).2) =
      st.carry) :
    lfcBack c (lfcFwd c st).2 = some ((lfcFwd c st).1, st) := by
  have hi := LfcState.index_lt h
  have hlen := LfcState.index_lt_length h
  have hprev : lfcPrev c (lfcFwd c st).2.i 1 = st.i := (lfcPrev_succ hi (by omega)).trans (lfcPrev_zero hi)
  rw [lfcBack_of_hasPred (lfcHasPred_lfcFwd hc h), hcarry, lfcBackSum_lfcFwd hc h, hprev, lfcFwd_slot_index h,
    show (((st.ago c c.rL + st.carry.toNat : Nat) : Int) - (st.carry.toNat : Int)).toNat = st.slot st.i by
      rw [LfcState.slot_index h]; omega,
    show (lfcFwd c st).2.x = st.x.set st.i (lfcFwd c st).1 from rfl, List.set_set, set_getD_self hlen]

theorem lfcBack_fwdN (hc : c.wf = true) (h : st.wf c = true) {n : Nat} (hn : c.rL ≤ n) :
    lfcBack c (lfcFwd c (lfcFwdN c n st)).2 = some ((lfcFwd c (lfcFwdN c n st)).1, lfcFwdN c n st) :=
  lfcBack_lfcFwd_of_carry hc (lfcFwdN_wf n h) (lfcBackCarry_fwdN h (lfcFwdN_succ_last c n st) hc hn)

/-! ## Recurrent states (R171, R176) -/

/-- R171: a state on a cycle of the forward step. -/
def LfcState.Recurrent (c : Config) (st : LfcState) : Prop :=
  st.wf c = true ∧ ∃ p, 0 < p ∧ lfcFwdN c p st = st

theorem LfcState.Recurrent.wf (h : st.Recurrent c) : st.wf c = true := by
  obtain ⟨hwf, -⟩ := h
  exact hwf

theorem lfcFwdN_comm (c : Config) (m n : Nat) (st : LfcState) :
    lfcFwdN c m (lfcFwdN c n st) = lfcFwdN c n (lfcFwdN c m st) := by
  rw [← lfcFwdN_add, Nat.add_comm, lfcFwdN_add]

/-- Steps around a cycle, any number of times. -/
theorem lfcFwdN_mul_of_cycle {p : Nat} (h : lfcFwdN c p st = st) (k : Nat) : lfcFwdN c (p * k) st = st := by
  induction k with
  | zero => rfl
  | succ k ih => rw [Nat.mul_succ, lfcFwdN_add, h, ih]

theorem LfcState.Recurrent.fwdN (h : st.Recurrent c) (n : Nat) : (lfcFwdN c n st).Recurrent c := by
  obtain ⟨hwf, p, hp, hcycle⟩ := h
  exact ⟨lfcFwdN_wf n hwf, p, hp, by rw [lfcFwdN_comm, hcycle]⟩

/-- Any number of steps before a recurrent state there is a recurrent state. -/
theorem LfcState.Recurrent.exists_before (h : st.Recurrent c) (n : Nat) : ∃ u, u.Recurrent c ∧ lfcFwdN c n u = st := by
  have ⟨_, p, hp, hcycle⟩ := h
  refine ⟨_, h.fwdN (p * n - n), ?_⟩
  rw [← lfcFwdN_add, Nat.add_sub_cancel' (Nat.le_mul_of_pos_left n hp), lfcFwdN_mul_of_cycle hcycle]

/-- R171, its first law. -/
theorem LfcState.Recurrent.back (hc : c.wf = true) (h : st.Recurrent c) :
    lfcBack c (lfcFwd c st).2 = some ((lfcFwd c st).1, st) := by
  obtain ⟨u, hu, rfl⟩ := h.exists_before c.rL
  exact lfcBack_fwdN hc hu.wf le_rfl

/-- The state with the given slots, index and carry. -/
def LfcState.ofParts (c : Config) (q : List (Fin (2 ^ c.wL)) × Nat × Bool) : LfcState :=
  { x := q.1.map Fin.val, i := q.2.1, carry := q.2.2 }

/-- Words below `2^w` are finitely many, so well-formed states are. -/
theorem finite_wf (c : Config) : {st : LfcState | st.wf c = true}.Finite := by
  have hfin := (List.finite_length_eq (Fin (2 ^ c.wL)) c.rL).prod
    ((Set.finite_lt_nat c.rL).prod (Set.finite_univ (α := Bool)))
  refine (hfin.image (LfcState.ofParts c)).subset fun st h => ?_
  obtain ⟨hlen, hx, hi⟩ := LfcState.wf_iff.mp h
  exact ⟨⟨st.x.pmap Fin.mk hx, st.i, st.carry⟩, ⟨by simpa using hlen, hi, trivial⟩,
    by simp [LfcState.ofParts, List.map_pmap]⟩

/-- From the r-th step of a run on, steps can be cancelled. -/
theorem lfcFwdN_cancel (hc : c.wf = true) (h : st.wf c = true) {a b : Nat} (ha : c.rL ≤ a) (hb : c.rL ≤ b) (m : Nat)
    (heq : lfcFwdN c (a + m) st = lfcFwdN c (b + m) st) : lfcFwdN c a st = lfcFwdN c b st := by
  induction m with
  | zero => exact heq
  | succ m ih =>
    refine ih ?_
    have hback := lfcBack_fwdN hc h (n := a + m) (by omega)
    rw [← lfcFwdN_succ_last, Nat.add_assoc, heq, ← Nat.add_assoc, lfcFwdN_succ_last,
      lfcBack_fwdN hc h (by omega : c.rL ≤ b + m)] at hback
    simp only [Option.some.injEq, Prod.mk.injEq] at hback
    exact hback.2.symm

/-- R176: r forward steps from any state lead to a cycle, for the run must repeat a state and the steps before the
repetition cancel. -/
theorem lfcFwdN_recurrent (hc : c.wf = true) (h : st.wf c = true) : (lfcFwdN c c.rL st).Recurrent c := by
  obtain ⟨m, n, hmn, heq⟩ := (finite_wf c).exists_lt_map_eq_of_forall_mem (f := fun k => lfcFwdN c (c.rL + k) st)
    fun k => lfcFwdN_wf _ h
  refine ⟨lfcFwdN_wf _ h, n - m, by omega, ?_⟩
  rw [← lfcFwdN_add]
  refine (lfcFwdN_cancel hc h le_rfl (by omega) m ?_).symm
  rwa [show n - m + c.rL + m = c.rL + n by omega]

/-! ## The construction (R151, R175, R176) -/

/-- Backward steps from a recurrent state all exist and lead to a recurrent state. -/
theorem LfcState.Recurrent.backN (hc : c.wf = true) (n : Nat) (h : st.Recurrent c) :
    ∃ u, lfcBackN c n st = some u ∧ u.Recurrent c ∧ lfcFwdN c n u = st := by
  induction n generalizing st with
  | zero => exact ⟨st, rfl, h, rfl⟩
  | succ n ih =>
    obtain ⟨v, hv, rfl⟩ := h.exists_before 1
    obtain ⟨u, hback, hu, rfl⟩ := ih hv
    refine ⟨u, ?_, hu, lfcFwdN_succ_last c n u⟩
    have hone : lfcBack c (lfcFwdN c 1 (lfcFwdN c n u)) = _ := hv.back hc
    rw [lfcBackN, hone]
    exact hback

/-- The corrected construction answers a recurrent state from which r steps lead where they lead from the literal one. -/
theorem exists_lfcConstruct_corrected (hc : c.wf = true) (z : List SeedWord) :
    ∃ st, lfcConstruct c z .corrected = some st ∧ st.Recurrent c ∧
      lfcFwdN c c.rL st = lfcFwdN c c.rL (lfcLiteral c z) := by
  have hs := lags_of_wf hc
  exact (lfcFwdN_recurrent hc (lfcLiteral_wf (by omega) z)).backN hc c.rL

theorem lfcConstruct_corrected (hc : c.wf = true) {z : List SeedWord} (h : lfcConstruct c z .corrected = some st) :
    st.Recurrent c ∧ lfcFwdN c c.rL st = lfcFwdN c c.rL (lfcLiteral c z) := by
  obtain ⟨u, hu, hspec⟩ := exists_lfcConstruct_corrected hc z
  rw [h] at hu
  rwa [Option.some.inj hu]

/-- Settles O45: the warm-up's backward steps start from a recurrent state. -/
theorem warmupNeverFaults : Obligations.WarmupNeverFaults := fun c z hc => by
  obtain ⟨st, hst, -⟩ := exists_lfcConstruct_corrected hc z
  exact ⟨st, hst⟩

/-- Settles O42: every state of the run is recurrent. -/
theorem nextThenBackRestores : Obligations.NextThenBackRestores := by
  intro c z st n hc hst cur
  obtain ⟨hrec, -⟩ := lfcConstruct_corrected hc hst
  have hcur : cur.Recurrent c := hrec.fwdN n
  exact ⟨lfcHasPred_lfcFwd hc hcur.wf, hcur.back hc⟩

/-- Settles O44: the outputs of a run are the words that are overwritten from its r-th step on, and from there on the two
runs are one. -/
theorem variantsSameOutputs : Obligations.VariantsSameOutputs := by
  intro c z st hc hst
  have hs := lags_of_wf hc
  obtain ⟨hrec, hmeet⟩ := lfcConstruct_corrected hc hst
  refine ⟨hmeet, fun k => ?_⟩
  rw [lfcFwdN_output hrec.wf, lfcFwdN_output (lfcLiteral_wf (by omega) z), lfcWord_add, lfcWord_add, hmeet]

end Sys2Proof.Machine
end

section
/-! PROOFS. The period of the configuration `test16` (00_scope.md R9, 40_lfc.md R172, R176): a state stands for a number
that a forward step divides by `2^16` modulo `m = 2^64 − 2^32 + 1`, and `2^192 − 1` is a multiple of m. -/

namespace Sys2Proof.Machine

variable {c : Config}

/-! ## A state from its words by age -/

/-- Two states of the same index and carry whose words agree at every age are the same. -/
theorem LfcState.eq_of_ago {u v : LfcState} (hu : u.wf c = true) (hv : v.wf c = true) (hi : u.i = v.i)
    (hcarry : u.carry = v.carry) (hago : ∀ e, e < c.rL → u.ago c (c.rL - e) = v.ago c (c.rL - e)) : u = v := by
  have ⟨hulen, _, hui⟩ := LfcState.wf_iff.mp hu
  have ⟨hvlen, _, _⟩ := LfcState.wf_iff.mp hv
  refine LfcState.eq_iff.mpr ⟨List.ext_getElem (by omega) fun j hju hjv => ?_, hi, hcarry⟩
  have hage : ∃ e, e < c.rL ∧ lfcPrev c u.i (c.rL - e) = j := by
    rcases Nat.lt_or_ge j u.i with hlt | hge
    · exact ⟨c.rL - (u.i - j), by omega, by rw [lfcPrev_eq hui (by omega)]; split <;> omega⟩
    · exact ⟨j - u.i, by omega, by rw [lfcPrev_eq hui (by omega)]; split <;> omega⟩
  obtain ⟨e, he, hj⟩ := hage
  have heq := hago e he
  rw [LfcState.ago, LfcState.ago, ← hi, hj] at heq
  simpa [hju, hjv] using heq

theorem lfcFwdN_index (n : Nat) {st : LfcState} (h : st.wf c = true) : (lfcFwdN c n st).i = (st.i + n) % c.rL := by
  induction n with
  | zero => exact (Nat.mod_eq_of_lt (LfcState.index_lt h)).symm
  | succ n ih =>
    rw [lfcFwdN_succ_last]
    show ((lfcFwdN c n st).i + 1) % c.rL = _
    rw [ih, Nat.mod_add_mod, Nat.add_assoc]

/-- A forward step is injective on the recurrent states, and so are many. -/
theorem LfcState.Recurrent.fwdN_inj (hc : c.wf = true) {u v : LfcState} (hu : u.Recurrent c) (hv : v.Recurrent c)
    (n : Nat) (heq : lfcFwdN c n u = lfcFwdN c n v) : u = v := by
  induction n with
  | zero => exact heq
  | succ n ih =>
    refine ih ?_
    have hback := (hu.fwdN n).back hc
    rw [← lfcFwdN_succ_last, heq, lfcFwdN_succ_last, (hv.fwdN n).back hc] at hback
    simp only [Option.some.injEq, Prod.mk.injEq] at hback
    exact hback.2.symm

/-! ## The number of a `test16` state -/

theorem test16_wf : Config.test16Philox32.wf = true := by decide

/-- The number that a state stands for: its words as a number to the base `2^16`, the oldest least significant, less the
number of its two latest words, plus the carry (the coefficients are those differences). -/
def test16Value (st : LfcState) : Nat :=
  st.ago Config.test16Philox32 4 + 65536 * st.ago Config.test16Philox32 3 +
    (65536 ^ 2 - 1) * st.ago Config.test16Philox32 2 + (65536 ^ 3 - 65536) * st.ago Config.test16Philox32 1 +
    st.carry.toNat

section Run

variable {st : LfcState} (h : st.wf Config.test16Philox32 = true)
include h

/-- A forward step divides the number by `2^16` modulo m: the output is the multiple of m to add. -/
theorem test16Value_fwd :
    65536 * test16Value (lfcFwd Config.test16Philox32 st).2 =
      test16Value st + (2 ^ 64 - 2 ^ 32 + 1) * (lfcFwd Config.test16Philox32 st).1 := by
  have hbal : (lfcFwd Config.test16Philox32 st).1 + st.ago Config.test16Philox32 4 + st.carry.toNat =
      st.ago Config.test16Philox32 2 + 65536 * (lfcFwd Config.test16Philox32 st).2.carry.toNat :=
    lfcFwd_balance test16_wf h
  have h1 := lfcFwd_ago_one h
  have h2 : (lfcFwd Config.test16Philox32 st).2.ago Config.test16Philox32 2 = st.ago Config.test16Philox32 1 :=
    lfcFwd_ago_succ h (by decide) (by decide)
  have h3 : (lfcFwd Config.test16Philox32 st).2.ago Config.test16Philox32 3 = st.ago Config.test16Philox32 2 :=
    lfcFwd_ago_succ h (by decide) (by decide)
  have h4 : (lfcFwd Config.test16Philox32 st).2.ago Config.test16Philox32 4 = st.ago Config.test16Philox32 3 :=
    lfcFwd_ago_succ h (by decide) (by decide)
  unfold test16Value
  omega

/-- Many steps divide the number by a power of `2^16`; the outputs are the digits of the multiple of m to add. -/
theorem test16Value_fwdN (n : Nat) :
    ∃ S, S + 1 ≤ 65536 ^ n ∧
      65536 ^ n * test16Value (lfcFwdN Config.test16Philox32 n st) = test16Value st + (2 ^ 64 - 2 ^ 32 + 1) * S := by
  induction n with
  | zero => exact ⟨0, by decide, by rw [pow_zero, one_mul]; rfl⟩
  | succ n ih =>
    obtain ⟨S, hS, hvalue⟩ := ih
    have hwf := lfcFwdN_wf n h
    have hy : (lfcFwd Config.test16Philox32 (lfcFwdN Config.test16Philox32 n st)).1 + 1 ≤ 65536 := lfcFwd_fst_lt hwf
    have hstep := test16Value_fwd hwf
    rw [lfcFwdN_succ_last]
    generalize (lfcFwd Config.test16Philox32 (lfcFwdN Config.test16Philox32 n st)).1 = y at hy hstep
    refine ⟨S + 65536 ^ n * y, ?_, ?_⟩
    · calc S + 65536 ^ n * y + 1 ≤ 65536 ^ n * (y + 1) := by rw [Nat.mul_succ]; omega
        _ ≤ 65536 ^ (n + 1) := by rw [pow_succ]; exact Nat.mul_le_mul_left _ hy
    · rw [pow_succ, mul_assoc, hstep, Nat.mul_add, hvalue]
      ring

end Run

/-- The number of a recurrent state is at most m, for steps around the cycle divide it. -/
theorem test16Value_le {st : LfcState} (h : st.Recurrent Config.test16Philox32) :
    test16Value st ≤ 2 ^ 64 - 2 ^ 32 + 1 := by
  obtain ⟨hwf, p, hp, hcycle⟩ := h
  obtain ⟨S, hS, hvalue⟩ := test16Value_fwdN hwf p
  have hbase : 1 < 65536 ^ p := Nat.one_lt_pow (by omega) (by decide)
  rw [hcycle] at hvalue
  generalize 65536 ^ p = B at hS hvalue hbase
  generalize 2 ^ 64 - 2 ^ 32 + 1 = m at hvalue ⊢
  by_contra hgt
  nlinarith

/-- The number of a state determines the next output and the next number. -/
theorem test16Value_fwd_congr {u v : LfcState} (hu : u.wf Config.test16Philox32 = true)
    (hv : v.wf Config.test16Philox32 = true) (heq : test16Value u = test16Value v) :
    (lfcFwd Config.test16Philox32 u).1 = (lfcFwd Config.test16Philox32 v).1 ∧
      test16Value (lfcFwd Config.test16Philox32 u).2 = test16Value (lfcFwd Config.test16Philox32 v).2 := by
  have hstepu := test16Value_fwd hu
  have hstepv := test16Value_fwd hv
  have hyu : (lfcFwd Config.test16Philox32 u).1 < 65536 := lfcFwd_fst_lt hu
  have hyv : (lfcFwd Config.test16Philox32 v).1 < 65536 := lfcFwd_fst_lt hv
  omega

theorem test16Value_fwdN_congr {u v : LfcState} (hu : u.wf Config.test16Philox32 = true)
    (hv : v.wf Config.test16Philox32 = true) (heq : test16Value u = test16Value v) (n : Nat) :
    test16Value (lfcFwdN Config.test16Philox32 n u) = test16Value (lfcFwdN Config.test16Philox32 n v) := by
  induction n with
  | zero => exact heq
  | succ n ih =>
    rw [lfcFwdN_succ_last, lfcFwdN_succ_last]
    exact (test16Value_fwd_congr (lfcFwdN_wf n hu) (lfcFwdN_wf n hv) ih).2

/-- Recurrent states of one index and one number are the same: their next four outputs agree, then all their words do. -/
theorem test16Value_inj {u v : LfcState} (hu : u.Recurrent Config.test16Philox32)
    (hv : v.Recurrent Config.test16Philox32) (hi : u.i = v.i) (heq : test16Value u = test16Value v) : u = v := by
  have hvalue := test16Value_fwdN_congr hu.wf hv.wf heq
  have hago : ∀ e, e < 4 → (lfcFwdN Config.test16Philox32 4 u).ago Config.test16Philox32 (4 - e) =
      (lfcFwdN Config.test16Philox32 4 v).ago Config.test16Philox32 (4 - e) := fun e he => by
    have hout := (test16Value_fwd_congr (lfcFwdN_wf e hu.wf) (lfcFwdN_wf e hv.wf) (hvalue e)).1
    rw [lfcFwdN_output hu.wf, lfcFwdN_output hv.wf, Nat.add_comm] at hout
    exact (lfcFwdN_ago hu.wf he 4).trans (hout.trans (lfcFwdN_ago hv.wf he 4).symm)
  refine hu.fwdN_inj test16_wf hv 4 (LfcState.eq_of_ago (lfcFwdN_wf 4 hu.wf) (lfcFwdN_wf 4 hv.wf) ?_ ?_ hago)
  · rw [lfcFwdN_index 4 hu.wf, lfcFwdN_index 4 hv.wf, hi]
  · have hsame := hvalue 4
    have h4 := hago 0 (by decide)
    have h3 := hago 1 (by decide)
    have h2 := hago 2 (by decide)
    have h1 := hago 3 (by decide)
    unfold test16Value at hsame
    simp only [Nat.reduceSub] at h1 h2 h3 h4
    rw [h1, h2, h3, h4, Nat.add_left_cancel_iff] at hsame
    exact (Bool.injective_iff (f := Bool.toNat)).mpr (by decide) hsame

/-! ## The period -/

/-- Twelve steps lead a recurrent state back: `2^192 ≡ 1` modulo m, and the numbers 0 and m are not confused. -/
theorem test16_fwdN_twelve {st : LfcState} (h : st.Recurrent Config.test16Philox32) :
    lfcFwdN Config.test16Philox32 12 st = st := by
  refine test16Value_inj (h.fwdN 12) h ?_ ?_
  · have hi : st.i < 4 := LfcState.index_lt h.wf
    rw [lfcFwdN_index 12 h.wf]
    show (st.i + 12) % 4 = st.i
    omega
  · obtain ⟨S, hS, hvalue⟩ := test16Value_fwdN h.wf 12
    have hle := test16Value_le h
    have hle' := test16Value_le (h.fwdN 12)
    omega

/-- A state with no predecessor never comes back. -/
theorem lfcFwdN_ne_of_no_pred {st : LfcState} (hc : c.wf = true) (h : st.wf c = true) (hpred : lfcHasPred c st = false)
    {k : Nat} (hk : 0 < k) : lfcFwdN c k st ≠ st := fun hcycle => by
  obtain ⟨n, rfl⟩ := Nat.exists_eq_add_of_lt hk
  have hlast := lfcHasPred_lfcFwd hc (lfcFwdN_wf (0 + n) h)
  rw [← lfcFwdN_succ_last, hcycle, hpred] at hlast
  cases hlast

/-- V36: the literal state of the default seed has no predecessor. -/
theorem test16_default_no_pred :
    lfcHasPred Config.test16Philox32
      (lfcLiteral Config.test16Philox32 (lcgWords Config.test16Philox32 0)) = false := by decide

/-- Settles O46: `2^64 − 2^32` is a multiple of twelve; the literal state of the default seed has no predecessor. -/
theorem test16Returns : Obligations.Test16Returns := by
  refine ⟨fun z => ?_, fun k => lfcFwdN_ne_of_no_pred test16_wf (lfcLiteral_wf (by decide) _) test16_default_no_pred⟩
  obtain ⟨st, hst, hrec, -⟩ := exists_lfcConstruct_corrected test16_wf z
  have hmultiple : 2 ^ 64 - 2 ^ 32 = 12 * 1537228672451215360 := by norm_num
  refine ⟨st, hst, ?_⟩
  rw [hmultiple]
  exact lfcFwdN_mul_of_cycle (test16_fwdN_twelve hrec) _

end Sys2Proof.Machine
end

section
/-! PROOFS. The PHX functions (41_philox.md R200 to R212, R230, R234, R235): the rounds and the block, the lane swap
between the variants, the counter, and what a next call leaves. -/

namespace Sys2Proof.Machine

variable {c : Config}

/-! ## The block, round by round (R202 to R207) -/

/-- The lanes after `q` rounds from round 0 (R207). -/
def phxLanes (c : Config) (v : Variant) (K X : List Nat) : Nat → List Nat
  | 0 => X
  | q + 1 => phxRound c v (roundKey c K q) (phxLanes c v K X q)

theorem phxRounds_phxLanes (c : Config) (v : Variant) (K X : List Nat) (fuel q : Nat) :
    phxRounds c v K fuel q (phxLanes c v K X q) = phxLanes c v K X (q + fuel) := by
  induction fuel generalizing q with
  | zero => rfl
  | succ fuel ih => rw [← Nat.succ_add_eq_add_succ q fuel]; exact ih (q + 1)

theorem phxBlock_eq_phxLanes (c : Config) (v : Variant) (K X : List Nat) :
    phxBlock c v K X = phxLanes c v K X c.rP := by
  rw [← Nat.zero_add c.rP, ← phxRounds_phxLanes]
  rfl

theorem phxRound_corrected_two (h : c.nP = 2) (key : Nat → Nat) (Z : List Nat) :
    phxRound c .corrected key Z = roundCor2 c key Z := if_pos h

theorem phxRound_literal_two (h : c.nP = 2) (key : Nat → Nat) (Z : List Nat) :
    phxRound c .literal key Z = roundLit2 c key Z := if_pos h

theorem phxRound_corrected_four (h : c.nP = 4) (key : Nat → Nat) (Z : List Nat) :
    phxRound c .corrected key Z = roundCor4 c key Z := if_neg (by omega)

theorem phxRound_literal_four (h : c.nP = 4) (key : Nat → Nat) (Z : List Nat) :
    phxRound c .literal key Z = roundLit4 c key Z := if_neg (by omega)

/-- Settles O52: the block is the last of the lanes `phxLanes`, and each round is the one its variant and word count
select. -/
theorem roundFunctions : Obligations.RoundFunctions := by
  refine ⟨fun c v K X => ⟨⟨phxLanes c v K X, rfl, fun q _ => rfl, phxBlock_eq_phxLanes c v K X⟩,
      fun hc hX => phxBlock_wordsOk hc v K hX⟩,
    fun c key x0 x1 x2 x3 => ⟨fun h => ⟨?_, ?_⟩, fun h => ⟨?_, ?_⟩⟩⟩
  · exact phxRound_corrected_two h key [x0, x1]
  · exact phxRound_literal_two h key [x0, x1]
  · exact phxRound_corrected_four h key [x0, x1, x2, x3]
  · exact phxRound_literal_four h key [x0, x1, x2, x3]

/-! ## The lane swap between the variants (R234) -/

@[simp] theorem swapPairs_swapPairs : ∀ Z : List Nat, swapPairs (swapPairs Z) = Z
  | [] => rfl
  | [_] => rfl
  | a :: b :: rest => congrArg (fun l => a :: b :: l) (swapPairs_swapPairs rest)

theorem phxRound_length (hc : c.wf = true) (v : Variant) (key : Nat → Nat) (Z : List Nat) :
    (phxRound c v key Z).length = c.nP := by
  obtain ⟨-, -, -, hn | hn, -⟩ := Config.wf_iff.mp hc <;> cases v
  · rw [phxRound_literal_two hn, hn]; rfl
  · rw [phxRound_corrected_two hn, hn]; rfl
  · rw [phxRound_literal_four hn, hn]; rfl
  · rw [phxRound_corrected_four hn, hn]; rfl

/-- One round: the literal round is the corrected one between two swaps. -/
theorem phxRound_literal_eq_swap (hc : c.wf = true) (key : Nat → Nat) {Z : List Nat} (hZ : Z.length = c.nP) :
    phxRound c .literal key Z = swapPairs (phxRound c .corrected key (swapPairs Z)) := by
  obtain ⟨-, -, -, hn | hn, -⟩ := Config.wf_iff.mp hc
  · obtain ⟨x0, x1, rfl⟩ := List.length_eq_two.mp (hZ.trans hn)
    rw [phxRound_literal_two hn, phxRound_corrected_two hn]
    rfl
  · obtain ⟨x0, x1, x2, x3, rfl⟩ := List.length_eq_four.mp (hZ.trans hn)
    rw [phxRound_literal_four hn, phxRound_corrected_four hn]
    rfl

/-- The swaps between two rounds cancel. -/
theorem phxRounds_literal_eq_swap (hc : c.wf = true) (K : List Nat) (fuel q : Nat) {Z : List Nat}
    (hZ : Z.length = c.nP) :
    phxRounds c .literal K fuel q Z = swapPairs (phxRounds c .corrected K fuel q (swapPairs Z)) := by
  induction fuel generalizing q Z with
  | zero => exact (swapPairs_swapPairs Z).symm
  | succ fuel ih =>
    rw [phxRounds, phxRounds, ih (q + 1) (phxRound_length hc .literal _ Z), phxRound_literal_eq_swap hc _ hZ,
      swapPairs_swapPairs]

/-- Settles O53: round by round, from round 0. -/
theorem variantConjugation : Obligations.VariantConjugation := fun c K _ hc hX =>
  phxRounds_literal_eq_swap hc K c.rP 0 hX

/-! ## The counter (R209, R235) -/

theorem ctrValue_phxInc (c : Config) (X : List Nat) :
    ctrValue c.wP (phxInc c X) = (ctrValue c.wP X + 1) % 2 ^ (c.wP * c.nP) := by
  rw [phxInc, ctrValue_ctrWords, Nat.mod_mod]

theorem phxInc_iterate_wordsOk (k : Nat) {X : List Nat} (hX : phxWordsOk c c.nP X = true) :
    phxWordsOk c c.nP ((phxInc c)^[k] X) = true := by
  cases k with
  | zero => exact hX
  | succ k => rw [Function.iterate_succ_apply']; exact phxInc_wordsOk _

theorem ctrValue_lt_of_wordsOk {X : List Nat} (hX : phxWordsOk c c.nP X = true) :
    ctrValue c.wP X < 2 ^ (c.wP * c.nP) := by
  obtain ⟨hlen, hlt⟩ := phxWordsOk_iff.mp hX
  exact hlen ▸ ctrValue_lt hlt

/-- Counters with the same value are the same. -/
theorem ctrValue_inj {X Y : List Nat} (hX : phxWordsOk c c.nP X = true) (hY : phxWordsOk c c.nP Y = true)
    (h : ctrValue c.wP X = ctrValue c.wP Y) : X = Y := by
  obtain ⟨hXlen, hXlt⟩ := phxWordsOk_iff.mp hX
  obtain ⟨hYlen, hYlt⟩ := phxWordsOk_iff.mp hY
  rw [← ctrWords_ctrValue hXlt, ← ctrWords_ctrValue hYlt, h, hXlen, hYlen]

theorem ctrValue_phxInc_iterate (k : Nat) {X : List Nat} (hX : phxWordsOk c c.nP X = true) :
    ctrValue c.wP ((phxInc c)^[k] X) = (ctrValue c.wP X + k) % 2 ^ (c.wP * c.nP) := by
  induction k with
  | zero => exact (Nat.mod_eq_of_lt (ctrValue_lt_of_wordsOk hX)).symm
  | succ k ih => rw [Function.iterate_succ_apply', ctrValue_phxInc, ih, Nat.mod_add_mod, add_assoc]

/-- Settles O54: `k` increments add `k` to the value modulo `2^(w·n)`, and a counter is its value. -/
theorem counterRule : Obligations.CounterRule := by
  intro c X _ hX
  refine ⟨ctrValue_phxInc c X, phxInc_wordsOk X, fun k => ?_⟩
  calc (phxInc c)^[k] X = X
      ↔ ctrValue c.wP ((phxInc c)^[k] X) = ctrValue c.wP X :=
        ⟨congrArg _, ctrValue_inj (phxInc_iterate_wordsOk k hX) hX⟩
    _ ↔ ctrValue c.wP X + k ≡ ctrValue c.wP X [MOD 2 ^ (c.wP * c.nP)] := by
        rw [ctrValue_phxInc_iterate k hX, Nat.ModEq, Nat.mod_eq_of_lt (ctrValue_lt_of_wordsOk hX)]
    _ ↔ k % 2 ^ (c.wP * c.nP) = 0 := Nat.add_modEq_left_iff.trans Nat.dvd_iff_mod_eq_zero

/-! ## A next call (R212, R230) -/

/-- At the end of the cache a block is generated from the counter before its increment. -/
theorem phxNext_of_last {st : PhxState} (v : Variant) (h : st.j + 1 = c.nP) :
    phxNext c v st = ((phxBlock c v st.K st.X).getD 0 0,
      { X := phxInc c st.X, K := st.K, Y := phxBlock c v st.K st.X, j := 0 }) := if_pos h

/-- Before the end only the cursor moves. -/
theorem phxNext_of_cached {st : PhxState} (v : Variant) (h : st.j + 1 ≠ c.nP) :
    phxNext c v st = (st.Y.getD (st.j + 1) 0, { X := st.X, K := st.K, Y := st.Y, j := st.j + 1 }) := if_neg h

theorem phxNext_key (c : Config) (v : Variant) (st : PhxState) : (phxNext c v st).2.K = st.K := by
  by_cases h : st.j + 1 = c.nP
  · rw [phxNext_of_last v h]
  · rw [phxNext_of_cached v h]

/-- The output is a word of the cache that the call leaves. -/
theorem phxNext_output (c : Config) (v : Variant) (st : PhxState) :
    (phxNext c v st).1 = (phxNext c v st).2.Y.getD (phxNext c v st).2.j 0 := by
  by_cases h : st.j + 1 = c.nP
  · rw [phxNext_of_last v h]
  · rw [phxNext_of_cached v h]

/-- Settles O55: the state after the call is within its bounds, and the output is a word of its cache. -/
theorem phxRange : Obligations.PhxRange := by
  intro c v st hc hwf
  have hwf' := phxNext_wf hc v hwf
  obtain ⟨-, -, hY, -⟩ := PhxState.wf_iff.mp hwf'
  refine ⟨?_, hwf', phxNext_key c v st⟩
  rw [phxNext_output]
  exact getD_lt (by positivity) (phxWordsOk_iff.mp hY).2 _

end Sys2Proof.Machine
end

section
/-! PROOFS. The PHX commands (41_philox.md R213 to R220, R232, R236): their words, their issue, and what their perform
leaves of the state. -/

namespace Sys2Proof.Machine

/-! ## PHX.SEED and PHX.SEEDSEQ (R213, R214) -/

theorem exec_phxSeed_eq (n : Inst) {s : State} {p : Pending} (hp : s.pend = some p) :
    exec (.phxSeed n) s = .next { s with
      phx := s.phx.set n { seeded := true, st := phxSeedInt s.cfg (p.a.toNat % 2 ^ 64) }, pend := none } := by
  rw [exec_phxSeed_pending hp (performable_free rfl rfl), Pending.seed_eq]
  rfl

theorem exec_phxSeedseq_eq (n : Inst) {s : State} {p : Pending} (hp : s.pend = some p)
    (hwords : p.words.length = s.cfg.nP / 2 * ((s.cfg.wP - 1) / 32 + 1)) :
    exec (.phxSeedseq n) s = .next { s with
      phx := s.phx.set n { seeded := true, st := phxSeedSeq s.cfg p.words }, pend := none } :=
  exec_phxSeedseq_pending hp (performable_iff.mpr ⟨rfl, hwords.ge⟩)

/-- Settles O47: the performs store `phxSeedInt` and `phxSeedSeq`, whose key words are the groups' sums
(`packGroups_getD`). -/
theorem phxSeedRules : Obligations.PhxSeedRules := by
  refine ⟨fun n => ?_, fun n s hidle => exec_issues hidle rfl rfl, fun n s hidle => ⟨fun hfew => ?_, fun hwords => ?_⟩,
    fun n s p hp => ⟨exec_phxSeed_eq n hp, fun hwords => ?_⟩⟩
  · cases n <;> decide
  · rw [exec_idle _ hidle, State.issue_of_underflow rfl hfew]
  · exact exec_latches hidle rfl hwords
  · exact ⟨packGroups s.cfg.wP s.cfg.kP (s.cfg.nP / 2) p.words, packGroups_length .., fun m => packGroups_getD hwords,
      exec_phxSeedseq_eq n hp hwords⟩

/-! ## PHX.NEXT and PHX.DISCARD (R215, R216) -/

theorem issueCheck_phxNext {n : Inst} {s : State} (v : Variant) (b : U128) (h : (s.phx.get n).seeded = true) :
    issueCheck (.phxNext n v) b s = none := if_pos h

theorem issueCheck_phxDiscard {n : Inst} {s : State} (v : Variant) (b : U128) (h : (s.phx.get n).seeded = true) :
    issueCheck (.phxDiscard n v) b s = none := if_pos h

theorem exec_phxNext_eq {n : Inst} {s : State} {p : Pending} (v : Variant) (hp : s.pend = some p)
    (h : (s.phx.get n).seeded = true) :
    exec (.phxNext n v) s = .next { s.answered (zext128 (phxNext s.cfg v (s.phx.get n).st).1) with
      phx := s.phx.set n { seeded := true, st := (phxNext s.cfg v (s.phx.get n).st).2 } } := by
  rw [exec_phxNext_pending hp (performable_free (issueCheck_phxNext v p.b h) rfl), State.stepPhx, h]
  rfl

theorem exec_phxDiscard_eq {n : Inst} {s : State} {p : Pending} (v : Variant) (hp : s.pend = some p)
    (h : (s.phx.get n).seeded = true) :
    exec (.phxDiscard n v) s = .next { s with
      phx := s.phx.set n { seeded := true, st := phxNextN s.cfg v (p.a.toNat % 2 ^ 64) (s.phx.get n).st },
      pend := none } := by
  rw [exec_phxDiscard_pending hp (performable_free (issueCheck_phxDiscard v p.b h) rfl), State.stepPhx, h,
    Pending.count_eq]
  rfl

/-- Settles O48: the perform stores what the next call leaves, at the end of the cache and before it. -/
theorem phxNextRule : Obligations.PhxNextRule := by
  refine ⟨fun n v => ?_, fun n v s hidle => ⟨fun hl => ?_, fun hl => ?_⟩,
    fun n v s p hp hl => ⟨fun hlast => ?_, fun hcached => ?_⟩⟩
  · cases n <;> cases v <;> decide
  · exact exec_raises hidle (by simp [issueCheck, hl])
  · exact exec_issues hidle (issueCheck_phxNext v s.opB hl) rfl
  · rw [exec_phxNext_eq v hp hl, phxNext_of_last v hlast]
    rfl
  · rw [exec_phxNext_eq v hp hl, phxNext_of_cached v hcached]
    rfl

/-! ## PHX.DISCARD is as many PHX.NEXT (R232) -/

/-- Commands run one after the other move a state along a family of states that each command moves one on. -/
theorem runCommands_of_steps {i : Instr} {R : Nat → State → Prop}
    (hstep : ∀ k t, R k t → ∃ u, runCommand i t = some u ∧ R (k + 1) u) (m : Nat) {k : Nat} {t : State} (ht : R k t) :
    ∃ u, runCommands i m t = some u ∧ R (k + m) u := by
  induction m generalizing k t with
  | zero => exact ⟨t, rfl, ht⟩
  | succ m ih =>
    obtain ⟨t', hfirst, ht'⟩ := hstep k t ht
    obtain ⟨u, hrest, hu⟩ := ih ht'
    refine ⟨u, ?_, Nat.succ_add_eq_add_succ k m ▸ hu⟩
    rw [← hrest]
    simp only [runCommands, hfirst]

/-- The state with the PHX unit `n` moved on by `k` next calls and RES replaced. -/
def State.afterPhxNexts (s : State) (n : Inst) (v : Variant) (k : Nat) (lo hi : Word) : State :=
  { s with
    phx := s.phx.set n { seeded := true, st := phxNextN s.cfg v k (s.phx.get n).st }
    resLo := lo, resHi := hi }

theorem State.afterPhxNexts_succ (s : State) (n : Inst) (v : Variant) (k : Nat) (lo hi lo' hi' : Word) :
    (s.afterPhxNexts n v k lo hi).afterPhxNexts n v 1 lo' hi' = s.afterPhxNexts n v (k + 1) lo' hi' := by
  simp only [afterPhxNexts, Pair.get_set_same, Pair.set_set_same, phxNextN, Function.iterate_succ_apply',
    Function.iterate_zero, id]

section Runs

variable {n : Inst} {s : State} (v : Variant) (hidle : s.pend = none) (h : (s.phx.get n).seeded = true)
include hidle h

theorem runCommand_phxNext :
    runCommand (.phxNext n v) s =
      some (s.afterPhxNexts n v 1 (U128.lo (zext128 (phxNext s.cfg v (s.phx.get n).st).1))
        (U128.hi (zext128 (phxNext s.cfg v (s.phx.get n).st).1))) := by
  have hissue := exec_issues hidle (issueCheck_phxNext v s.opB h) rfl
  have hperform := exec_phxNext_eq (s := s.issued (.phxNext n v) []) v rfl h
  rw [runCommand_of_issues hissue, hperform]
  refine congrArg some ?_
  rw [State.afterPhxNexts, hidle]
  rfl

theorem runCommand_phxDiscard :
    runCommand (.phxDiscard n v) s = some (s.afterPhxNexts n v s.arg0Lo.toNat s.resLo s.resHi) := by
  have hissue := exec_issues hidle (issueCheck_phxDiscard v s.opB h) rfl
  have hperform := exec_phxDiscard_eq (s := s.issued (.phxDiscard n v) []) v rfl h
  rw [runCommand_of_issues hissue, hperform, ← issued_count_eq]
  refine congrArg some ?_
  rw [State.afterPhxNexts, hidle]
  rfl

theorem runCommands_phxNext (k : Nat) :
    ∃ lo hi, runCommands (.phxNext n v) k s = some (s.afterPhxNexts n v k lo hi) := by
  have hstart : s = s.afterPhxNexts n v 0 s.resLo s.resHi := by
    have hsame : s.phx.set n { seeded := true, st := (s.phx.get n).st } = s.phx := by
      rw [← h, Pair.set_get_self]
    simp only [State.afterPhxNexts, phxNextN, Function.iterate_zero, id, hsame]
  have hstep : ∀ j t, (∃ lo hi, t = s.afterPhxNexts n v j lo hi) →
      ∃ u, runCommand (.phxNext n v) t = some u ∧ ∃ lo hi, u = s.afterPhxNexts n v (j + 1) lo hi := by
    rintro j _ ⟨lo, hi, rfl⟩
    have hseeded : ((s.afterPhxNexts n v j lo hi).phx.get n).seeded = true := by simp [State.afterPhxNexts]
    exact ⟨_, runCommand_phxNext v hidle hseeded, _, _, State.afterPhxNexts_succ ..⟩
  obtain ⟨_, hrun, lo, hi, rfl⟩ := runCommands_of_steps hstep k ⟨s.resLo, s.resHi, hstart⟩
  exact ⟨lo, hi, by rw [hrun, Nat.zero_add]⟩

end Runs

/-- Settles O49: both runs leave the next calls counted by ARG0_LO, and RES apart nothing else. -/
theorem phxDiscardRule : Obligations.PhxDiscardRule := by
  refine ⟨fun n v => ?_, fun n v s hidle => ⟨fun hl => ?_, fun hl => ?_⟩, fun n v s p => exec_phxDiscard_eq v,
    fun n v s hidle hl => ?_⟩
  · cases n <;> cases v <;> decide
  · exact exec_raises hidle (by simp [issueCheck, hl])
  · exact exec_issues hidle (issueCheck_phxDiscard v s.opB hl) rfl
  · obtain ⟨lo, hi, hnexts⟩ := runCommands_phxNext v hidle hl s.arg0Lo.toNat
    exact ⟨_, _, hnexts, runCommand_phxDiscard v hidle hl, rfl⟩

/-! ## PHX.EQ, PHX.MIN and PHX.MAX (R217 to R219) -/

theorem PhxState.eq_iff {a b : PhxState} : a = b ↔ a.X = b.X ∧ a.K = b.K ∧ a.Y = b.Y ∧ a.j = b.j := by
  cases a
  cases b
  simp

theorem issueCheck_phxEq (b : U128) {s : State} (h0 : s.phx.i0.seeded = true) (h1 : s.phx.i1.seeded = true) :
    issueCheck .phxEq b s = none := by
  simp [issueCheck, h0, h1]

theorem issueCheck_phxEq_unseeded (b : U128) {s : State} (h : s.phx.i0.seeded = false ∨ s.phx.i1.seeded = false) :
    issueCheck .phxEq b s = some .unseeded := by
  simp [issueCheck, Bool.and_eq_false_iff.mpr h]

theorem exec_phxEq_eq {s : State} {p : Pending} (hp : s.pend = some p) (h0 : s.phx.i0.seeded = true)
    (h1 : s.phx.i1.seeded = true) :
    exec .phxEq s = .next (s.answered (boolRes (decide (s.phx.i0.st = s.phx.i1.st)))) :=
  exec_phxEq_pending hp (performable_free (issueCheck_phxEq p.b h0 h1) rfl)

/-- Settles O50: equality of the states is equality of the four parts, and the largest word fits RES. -/
theorem phxEqMinMax : Obligations.PhxEqMinMax := by
  refine ⟨by decide, by decide, by decide, fun s hidle => ⟨fun h0 h1 => ?_, fun h => ?_⟩,
    fun s hidle => exec_issues hidle rfl rfl, fun s hidle => exec_issues hidle rfl rfl,
    fun s p hp => ⟨fun h0 h1 => ⟨fun heq => ?_, fun hne => ?_⟩, ?_, fun hwf => ?_⟩⟩
  · exact exec_issues hidle (issueCheck_phxEq s.opB h0 h1) rfl
  · exact exec_raises hidle (issueCheck_phxEq_unseeded s.opB h)
  · rw [exec_phxEq_eq hp h0 h1, decide_eq_true (PhxState.eq_iff.mpr heq)]
    rfl
  · rw [exec_phxEq_eq hp h0 h1, decide_eq_false (mt PhxState.eq_iff.mp hne)]
    rfl
  · exact exec_phxMin_pending hp (performable_free rfl rfl)
  · obtain ⟨-, -, ⟨-, hw⟩, -⟩ := Config.wf_iff.mp hwf
    exact ⟨_, zext128_max_toNat hw, exec_phxMax_pending hp (performable_free rfl rfl)⟩

/-! ## PHX.MULHILO (R200, R220, R236) -/

theorem two_pow_wP_le {c : Config} (hc : c.wf = true) : 2 ^ c.wP ≤ 2 ^ 64 := by
  obtain ⟨-, -, ⟨-, hw⟩, -⟩ := Config.wf_iff.mp hc
  exact Nat.pow_le_pow_right (by decide) hw

theorem Pending.mulA_eq (c : Config) (p : Pending) : p.mulA c = p.a.toNat % 2 ^ 64 % 2 ^ c.wP := by
  rw [Pending.mulA, U128.lo_toNat]

theorem Pending.mulB_eq (c : Config) (p : Pending) : p.mulB c = p.b.toNat % 2 ^ 64 % 2 ^ c.wP := by
  rw [Pending.mulB, U128.lo_toNat]

theorem Pending.mulA_lt (c : Config) (p : Pending) : p.mulA c < 2 ^ c.wP := Nat.mod_lt _ (by positivity)

theorem Pending.mulB_lt (c : Config) (p : Pending) : p.mulB c < 2 ^ c.wP := Nat.mod_lt _ (by positivity)

theorem exec_phxMulhilo_eq {s : State} {p : Pending} (hp : s.pend = some p) :
    exec .phxMulhilo s = .next { s with
      resHi := BitVec.ofNat 64 (mulhilo s.cfg (p.mulA s.cfg) (p.mulB s.cfg)).1
      resLo := BitVec.ofNat 64 (mulhilo s.cfg (p.mulA s.cfg) (p.mulB s.cfg)).2
      pend := none } := by
  rw [exec_phxMulhilo_pending hp (performable_free rfl rfl), State.setRes, U128.hi_ofHalves, U128.lo_ofHalves]
  rfl

/-- Both halves fit a register. -/
theorem mulhilo_toNat {c : Config} (hc : c.wf = true) {a b : Nat} (ha : a < 2 ^ c.wP) (hb : b < 2 ^ c.wP) :
    (BitVec.ofNat 64 (mulhilo c a b).1).toNat = (mulhilo c a b).1 ∧
      (BitVec.ofNat 64 (mulhilo c a b).2).toNat = (mulhilo c a b).2 := by
  obtain ⟨hhi, hlo⟩ := mulhilo_lt ha hb
  exact ⟨Nat.mod_eq_of_lt (hhi.trans_le (two_pow_wP_le hc)), Nat.mod_eq_of_lt (hlo.trans_le (two_pow_wP_le hc))⟩

theorem resultOf_u128Mul (s : State) (a b : U128) : resultOf .u128Mul s a b = some (a * b) := by
  have hperform := exec_u128Mul_pending (s := s.setPend (some { cmd := .u128Mul, a := a, b := b, words := [] })) rfl
    (performable_free rfl rfl)
  exact resultOf_eq rfl hperform

/-- The XU product of two operands of 64 bits is exact. -/
theorem u128Mul_toNat {a b : Nat} (ha : a < 2 ^ 64) (hb : b < 2 ^ 64) :
    (BitVec.ofNat 128 a * BitVec.ofNat 128 b).toNat = a * b := by
  have hprod : a * b < 2 ^ 64 * 2 ^ 64 := Nat.mul_lt_mul'' ha hb
  rw [← BitVec.ofNat_mul, BitVec.toNat_ofNat, Nat.mod_eq_of_lt (by omega)]

/-- Settles O51: the halves fit their registers, and the XU product of words of `w` bits is exact. -/
theorem phxMulhiloRule : Obligations.PhxMulhiloRule := by
  refine ⟨by decide, fun s hidle => exec_issues hidle rfl rfl, fun s p hc hp => ?_, fun c a b hc ha hb s => ?_⟩
  · rw [← Pending.mulA_eq, ← Pending.mulB_eq]
    obtain ⟨hhi, hlo⟩ := mulhilo_toNat hc (p.mulA_lt s.cfg) (p.mulB_lt s.cfg)
    exact ⟨_, _, hhi, hlo, exec_phxMulhilo_eq hp⟩
  · have hw := two_pow_wP_le hc
    refine ⟨_, resultOf_u128Mul s _ _, ?_⟩
    rw [u128Mul_toNat (ha.trans_le hw) (hb.trans_le hw)]
    rfl

end Sys2Proof.Machine
end

section
/-! PROOFS. The XU commands (42_u128.md R262 to R269, R280 to R283): their words, their issue, the number each perform
leaves in RES, and the laws of these numbers. -/

namespace Sys2Proof.Machine

/-! ## The operations on numbers -/

/-- A shift counts only when all 128 bits of `B` together are below 128 (R264, R265). -/
theorem xuShift_count_lt_iff {b : U128} : b < 128#128 ↔ b.toNat < 128 := by
  rw [BitVec.lt_def]
  rfl

theorem xuShl_toNat (a b : U128) :
    (xuShl a b).toNat = if b.toNat < 128 then a.toNat * 2 ^ b.toNat % 2 ^ 128 else 0 := by
  unfold xuShl
  split
  · next h => rw [if_pos (xuShift_count_lt_iff.mp h), BitVec.toNat_shiftLeft, Nat.shiftLeft_eq]
  · next h => rw [if_neg (mt xuShift_count_lt_iff.mpr h)]; rfl

theorem xuShr_toNat (a b : U128) :
    (xuShr a b).toNat = if b.toNat < 128 then a.toNat / 2 ^ b.toNat else 0 := by
  unfold xuShr
  split
  · next h => rw [if_pos (xuShift_count_lt_iff.mp h), BitVec.toNat_ushiftRight, Nat.shiftRight_eq_div_pow]
  · next h => rw [if_neg (mt xuShift_count_lt_iff.mpr h)]; rfl

theorem toNat_ofNat_shiftCount {k : Nat} (hk : k < 128) : (BitVec.ofNat 128 k).toNat = k :=
  Nat.mod_eq_of_lt (by omega)

theorem ofNat_shiftCount_lt {k : Nat} (hk : k < 128) : BitVec.ofNat 128 k < 128#128 := by
  rw [xuShift_count_lt_iff, toNat_ofNat_shiftCount hk]
  exact hk

theorem xuShl_ofNat (a : U128) {k : Nat} (hk : k < 128) : xuShl a (BitVec.ofNat 128 k) = a <<< k := by
  rw [xuShl, if_pos (ofNat_shiftCount_lt hk), toNat_ofNat_shiftCount hk]

theorem xuShr_ofNat (a : U128) {k : Nat} (hk : k < 128) : xuShr a (BitVec.ofNat 128 k) = a >>> k := by
  rw [xuShr, if_pos (ofNat_shiftCount_lt hk), toNat_ofNat_shiftCount hk]

/-- R283: left shifts compose while their sum counts. -/
theorem xuShl_xuShl (a : U128) {j k : Nat} (h : j + k < 128) :
    xuShl (xuShl a (BitVec.ofNat 128 j)) (BitVec.ofNat 128 k) = xuShl a (BitVec.ofNat 128 (j + k)) := by
  rw [xuShl_ofNat _ (by omega), xuShl_ofNat _ (by omega), xuShl_ofNat _ h, BitVec.shiftLeft_add]

/-- R283: right shifts compose while their sum counts. -/
theorem xuShr_xuShr (a : U128) {j k : Nat} (h : j + k < 128) :
    xuShr (xuShr a (BitVec.ofNat 128 j)) (BitVec.ofNat 128 k) = xuShr a (BitVec.ofNat 128 (j + k)) := by
  rw [xuShr_ofNat _ (by omega), xuShr_ofNat _ (by omega), xuShr_ofNat _ h, BitVec.shiftRight_add]

theorem u128Sub_toNat (a b : U128) : ((a - b).toNat : Int) = ((a.toNat : Int) - b.toNat) % 2 ^ 128 := by
  have ha := a.isLt
  have hb := b.isLt
  rw [BitVec.toNat_sub]
  omega

theorem u128Mul_toNat_of_lt {a b : U128} (ha : a.toNat < 2 ^ 64) (hb : b.toNat < 2 ^ 64) :
    (a * b).toNat = a.toNat * b.toNat := by
  simpa only [BitVec.ofNat_toNat, BitVec.setWidth_eq] using u128Mul_toNat ha hb

theorem u128_toNat_pos {b : U128} (hb : b ≠ 0) : 0 < b.toNat :=
  Nat.pos_of_ne_zero fun h => hb (BitVec.eq_of_toNat_eq h)

theorem u128Mod_lt (a : U128) {b : U128} (hb : b ≠ 0) : (a % b).toNat < b.toNat := by
  rw [BitVec.toNat_umod]
  exact Nat.mod_lt _ (u128_toNat_pos hb)

theorem u128Mod_le (a b : U128) : (a % b).toNat ≤ a.toNat := by
  rw [BitVec.toNat_umod]
  exact Nat.mod_le _ _

theorem u128_eq_mul_add_mod (a b : U128) : a.toNat = a.toNat / b.toNat * b.toNat + (a % b).toNat := by
  rw [BitVec.toNat_umod, Nat.div_add_mod']

/-- R282: the difference does not wrap, for the remainder is at most `A`. -/
theorem u128_dvd_sub_mod (a b : U128) : b.toNat ∣ (a - a % b).toNat := by
  rw [BitVec.toNat_sub_of_le (u128Mod_le a b), BitVec.toNat_umod]
  exact Nat.dvd_sub_mod _

theorem boolRes_le (a b : U128) : boolRes (decide (a ≤ b)) = if a.toNat ≤ b.toNat then 1 else 0 := by
  simp only [boolRes, BitVec.le_def, decide_eq_true_eq]

theorem boolRes_decide_eq_one_iff (P : Prop) [Decidable P] : boolRes (decide P) = 1 ↔ P := by
  by_cases h : P <;> simp [boolRes, h]

/-! ## What the commands do (R262 to R269) -/

theorem exec_u128Mod_eq {s : State} {p : Pending} (hp : s.pend = some p) (hb : p.b ≠ 0) :
    exec .u128Mod s = .next (s.answered (p.a % p.b)) :=
  exec_u128Mod_pending hp (performable_free (if_neg hb) rfl)

/-- Settles O58: the product is that of the numbers, and the quotient is the natural `q` of R267. -/
theorem u128MulMod : Obligations.U128MulMod := by
  refine ⟨by decide, by decide, fun s hidle => exec_issues hidle rfl rfl, fun s hidle => ⟨fun hzero => ?_, fun hne => ?_⟩,
    fun s p hp => ⟨⟨p.a * p.b, BitVec.toNat_mul .., fun ha hb => u128Mul_toNat_of_lt ha hb, ?_⟩, fun hb => ?_⟩⟩
  · exact exec_raises hidle (if_pos (State.opB_eq_zero_iff.mpr hzero))
  · exact exec_issues hidle (if_neg (mt State.opB_eq_zero_iff.mp hne)) rfl
  · exact exec_u128Mul_pending hp (performable_free rfl rfl)
  · exact ⟨p.a % p.b, u128Mod_lt p.a hb, ⟨_, u128_eq_mul_add_mod p.a p.b⟩, exec_u128Mod_eq hp hb⟩

/-- Settles O56: the performs are the sum and the difference of words of 128 bits. -/
theorem u128AddSub : Obligations.U128AddSub := by
  refine ⟨by decide, by decide, fun s hidle => exec_issues hidle rfl rfl, fun s hidle => exec_issues hidle rfl rfl,
    fun s p hp => ⟨⟨p.a + p.b, BitVec.toNat_add .., ?_⟩, ⟨p.a - p.b, u128Sub_toNat p.a p.b, ?_⟩⟩⟩
  · exact exec_u128Add_pending hp (performable_free rfl rfl)
  · exact exec_u128Sub_pending hp (performable_free rfl rfl)

/-- Settles O57: the performs are `xuShl` and `xuShr`, which look at all of `B`. -/
theorem u128Shifts : Obligations.U128Shifts := by
  refine ⟨by decide, by decide, fun s hidle => exec_issues hidle rfl rfl, fun s hidle => exec_issues hidle rfl rfl,
    fun s p hp => ⟨⟨xuShl p.a p.b, xuShl_toNat p.a p.b, ?_⟩, ⟨xuShr p.a p.b, xuShr_toNat p.a p.b, ?_⟩⟩⟩
  · exact exec_u128Shl_pending hp (performable_free rfl rfl)
  · exact exec_u128Shr_pending hp (performable_free rfl rfl)

/-- Settles O59: the order of words is the order of their numbers. -/
theorem u128Compare : Obligations.U128Compare := by
  refine ⟨by decide, by decide, fun s hidle => exec_issues hidle rfl rfl, fun s hidle => exec_issues hidle rfl rfl,
    fun s p hp => ⟨?_, ?_⟩⟩
  · rw [← boolRes_le]
    exact exec_u128Le_pending hp (performable_free rfl rfl)
  · rw [← boolRes_le]
    exact exec_u128Ge_pending hp (performable_free rfl rfl)

/-! ## The results the commands leave in RES -/

/-- The result of a command that no check of R109 stops at `b` and whose perform answers `f A B`. -/
theorem resultOf_of_perform {i : Instr} (s : State) (a : U128) {b : U128} (f : U128 → U128 → U128)
    (hperform : ∀ {t : State} {p : Pending}, t.pend = some p → performable i p t = true →
      exec i t = .next (t.setRes (f p.a p.b)).complete)
    (hcheck : ∀ t, issueCheck i b t = none) (hfree : ∀ c, wordsNeeded c i = 0) :
    resultOf i s a b = some (f a b) := by
  have h := hperform (t := s.setPend (some { cmd := i, a := a, b := b, words := [] })) rfl
    (performable_free (hcheck _) (hfree _))
  exact resultOf_eq rfl h

section Results

variable (s : State) (a b : U128)

theorem resultOf_u128Add : resultOf .u128Add s a b = some (a + b) :=
  resultOf_of_perform s a (· + ·) exec_u128Add_pending (fun _ => rfl) fun _ => rfl

theorem resultOf_u128Sub : resultOf .u128Sub s a b = some (a - b) :=
  resultOf_of_perform s a (· - ·) exec_u128Sub_pending (fun _ => rfl) fun _ => rfl

theorem resultOf_u128Shl : resultOf .u128Shl s a b = some (xuShl a b) :=
  resultOf_of_perform s a xuShl exec_u128Shl_pending (fun _ => rfl) fun _ => rfl

theorem resultOf_u128Shr : resultOf .u128Shr s a b = some (xuShr a b) :=
  resultOf_of_perform s a xuShr exec_u128Shr_pending (fun _ => rfl) fun _ => rfl

theorem resultOf_u128Mod {b : U128} (hb : b ≠ 0) : resultOf .u128Mod s a b = some (a % b) :=
  resultOf_of_perform s a (· % ·) exec_u128Mod_pending (fun _ => if_neg hb) fun _ => rfl

theorem resultOf_u128Le : resultOf .u128Le s a b = some (boolRes (decide (a ≤ b))) :=
  resultOf_of_perform s a (fun a b => boolRes (decide (a ≤ b))) exec_u128Le_pending (fun _ => rfl) fun _ => rfl

theorem resultOf_u128Ge : resultOf .u128Ge s a b = some (boolRes (decide (b ≤ a))) :=
  resultOf_of_perform s a (fun a b => boolRes (decide (b ≤ a))) exec_u128Ge_pending (fun _ => rfl) fun _ => rfl

theorem resultOf_u128Le_eq_one_iff : resultOf .u128Le s a b = some 1 ↔ a ≤ b := by
  rw [resultOf_u128Le, Option.some_inj, boolRes_decide_eq_one_iff]

theorem resultOf_u128Ge_eq_one_iff : resultOf .u128Ge s a b = some 1 ↔ b ≤ a := by
  rw [resultOf_u128Ge, Option.some_inj, boolRes_decide_eq_one_iff]

end Results

/-! ## The laws (R281 to R283) -/

/-- Settles O60: each law is one of the words of 128 bits that the commands answer. -/
theorem u128Laws : Obligations.U128Laws := by
  intro s a b
  simp only [resultOf_u128Le_eq_one_iff, resultOf_u128Ge_eq_one_iff]
  refine ⟨⟨_, resultOf_u128Add s a b, ?_⟩, ⟨_, resultOf_u128Sub s a b, ?_⟩, fun hb => ?_, ?_, ?_, ?_,
    fun j k h => ⟨⟨_, resultOf_u128Shl s a _, ?_⟩, ⟨_, resultOf_u128Shr s a _, ?_⟩⟩⟩
  · rw [resultOf_u128Sub, BitVec.add_sub_cancel]
  · rw [resultOf_u128Add, BitVec.sub_add_cancel]
  · exact ⟨_, _, resultOf_u128Mod s a hb, resultOf_u128Sub s a _, u128Mod_lt a hb, u128Mod_le a b,
      u128_dvd_sub_mod a b⟩
  · rw [resultOf_u128Le, resultOf_u128Ge]
  · exact Nat.le_total a.toNat b.toNat
  · exact ⟨fun ⟨hab, hba⟩ => BitVec.le_antisymm hab hba, fun heq => heq ▸ ⟨BitVec.le_refl a, BitVec.le_refl a⟩⟩
  · rw [resultOf_u128Shl, resultOf_u128Shl, xuShl_xuShl a h]
  · rw [resultOf_u128Shr, resultOf_u128Shr, xuShr_xuShr a h]

end Sys2Proof.Machine
end

section
/-! PROOFS. The control commands (43_control.md R300, R301): their words, their issue, and what their perform leaves of
the state. -/

namespace Sys2Proof.Machine

/-- Settles O30: no check of R109 stops the two commands and they take no seed words, so each issues freely and its
perform is `State.complete`, after the FIFO is emptied for SEEDQ.FLUSH. -/
theorem controlCommands : Obligations.ControlCommands := by
  refine ⟨by decide, by decide, fun s hidle => exec_issues hidle rfl rfl, fun s hidle => exec_issues hidle rfl rfl,
    fun s p hp => ⟨?_, ?_⟩⟩
  · exact exec_nop_pending hp (performable_free rfl rfl)
  · exact exec_seedqFlush_pending hp (performable_free rfl rfl)

end Sys2Proof.Machine
end

section
/-! PROOFS. The error record (60_exceptions.md R320, R324, R326, R328): what recording an error writes, and that no
command reads the record. -/

namespace Sys2Proof.Machine

/-! ## Recording an error (R324, R326) -/

/-- The first error since the last clear is kept. -/
theorem State.raise_of_clear {s : State} (e : ErrCode) (h : s.err = false) :
    s.raise e = { s with err := true, ecode := e.code } :=
  if_neg (by simp [h])

/-- A later error leaves the code of the first. -/
theorem State.raise_of_recorded {s : State} (e : ErrCode) (h : s.err = true) : s.raise e = { s with eovf := true } :=
  if_pos h

/-- Settles O9: the two branches of `State.raise`, and the codes by evaluation. -/
theorem errorRecordRule : Obligations.ErrorRecordRule :=
  ⟨fun _ e => ⟨State.raise_of_clear e, State.raise_of_recorded e⟩, by decide⟩

/-! ## What a perform reads (R110, R328) -/

/-- What a perform reads or writes of `s` (the configuration, RES, the latch, the FIFO and the engines), in the
surroundings of `u`: its ARG registers, error record, host, schedule and count of free values. -/
def State.graft (s u : State) : State :=
  { u with
    cfg := s.cfg, resLo := s.resLo, resHi := s.resHi, pend := s.pend, seedq := s.seedq, lfc := s.lfc, phx := s.phx }

theorem performable_congr {s t : State} (i : Instr) (p : Pending) (hcfg : t.cfg = s.cfg) (hlfc : t.lfc = s.lfc)
    (hphx : t.phx = s.phx) : performable i p t = performable i p s := by
  simp only [performable, issueCheck_congr i p.b hcfg hlfc hphx, hcfg]

section Graft

variable {i : Instr} {s t : State} {p : Pending} (u : State)

/-- A pending command goes through in any surroundings if its effect does. -/
theorem command_graft {eff : Pending → State → Result} (hp : s.pend = some p)
    (heff : eff p s = .next t → eff p (s.graft u) = .next (t.graft u)) (h : command i eff s = .next t) :
    command i eff (s.graft u) = .next (t.graft u) := by
  obtain ⟨hidle, -⟩ | ⟨q, hq, hperf, hdone⟩ := command_next h
  · simp [hp] at hidle
  · obtain rfl : p = q := Option.some.inj (hp.symm.trans hq)
    rw [command_pending eff (show (s.graft u).pend = some p from hp)
      ((performable_congr i p rfl rfl rfl).trans hperf)]
    exact heff hdone

theorem seedLfc_graft {n : Inst} {st : Option LfcState} (h : seedLfc n st s = .next t) :
    seedLfc n st (s.graft u) = .next (t.graft u) := by
  obtain ⟨st', rfl, rfl⟩ := seedLfc_next h
  rfl

/-- The surroundings of a perform are neither read nor written: the seed commands and LFC.BACK answer a next state
where their construction or their backward step exists, which reads the configuration and the engine only; every other
perform is an update of what `State.graft` keeps of `s`. -/
theorem exec_graft (hp : s.pend = some p) (h : exec i s = .next t) : exec i (s.graft u) = .next (t.graft u) := by
  cases i
  case lfcSeed n v => exact command_graft u hp (seedLfc_graft u) h
  case lfcSeedseq n v => exact command_graft u hp (seedLfc_graft u) h
  case lfcBack n =>
    obtain ⟨hperf, hdone⟩ := exec_performed hp h
    cases hdone with
    | lfcBack _ _ hback =>
      exact exec_lfcBack_pending (s := s.graft u) hp ((performable_congr _ p rfl rfl rfl).trans hperf) hback
    | result _ _ _ _ hinst => cases hinst
  all_goals
    simp only [exec] at h ⊢
    refine command_graft u hp ?_ h
    rintro ⟨⟩
    rfl

end Graft

/-- The surroundings that a perform finds are those it leaves. -/
theorem Performed.graft_withRecord {i : Instr} {p : Pending} {s t : State} (h : Performed i p s t) (err eovf : Bool)
    (ecode : BitVec 8) : t.graft (s.withRecord err eovf ecode) = t.withRecord err eovf ecode := by
  rw [h.frame]
  rfl

/-! ## An issue under any error record (R328) -/

theorem State.raise_withRecord (s : State) (e : ErrCode) (err eovf : Bool) (ecode : BitVec 8) :
    (s.withRecord err eovf ecode).raise e =
      (s.raise e).withRecord true (eovf || err) (if err then ecode else e.code) := by
  rw [State.raise_frame (s.withRecord err eovf ecode), State.raise_err, State.raise_eovf, State.raise_ecode,
    State.raise_frame s]
  rfl

/-- An issue has the same outcome under any record: its checks, the FIFO and what it latches are not of the record. -/
theorem State.issue_withRecord (s : State) (i : Instr) (err eovf : Bool) (ecode : BitVec 8) :
    ∃ err' eovf' ecode', (s.withRecord err eovf ecode).issue i = (s.issue i).withRecord err' eovf' ecode' := by
  have hcheck : issueCheck i (s.withRecord err eovf ecode).opB (s.withRecord err eovf ecode) =
      issueCheck i s.opB s := issueCheck_congr i s.opB rfl rfl rfl
  obtain ⟨e, he, hissue⟩ | ⟨hnone, hfew, hissue⟩ | ⟨hnone, hwords, hissue⟩ := s.issue_cases i
  · rw [hissue, State.issue_of_check (hcheck.trans he), State.raise_withRecord]
    exact ⟨_, _, _, rfl⟩
  · rw [hissue, State.issue_of_underflow (hcheck.trans hnone) hfew, State.raise_withRecord]
    exact ⟨_, _, _, rfl⟩
  · rw [hissue, State.issue_of_words (hcheck.trans hnone) hwords]
    exact ⟨err, eovf, ecode, rfl⟩

/-- Settles O10: an issue has the same outcome under any record, and a perform leaves the record it finds. -/
theorem errorRecordDoesNotBlock : Obligations.ErrorRecordDoesNotBlock := by
  intro i s t err eovf ecode h
  obtain ⟨hidle, rfl⟩ | ⟨p, hp, -, hdone⟩ := exec_next h
  · obtain ⟨err', eovf', ecode', hissue⟩ := s.issue_withRecord i err eovf ecode
    refine ⟨err', eovf', ecode', ?_⟩
    rw [exec_idle i (show (s.withRecord err eovf ecode).pend = none from hidle), hissue]
  · refine ⟨err, eovf, ecode, ?_⟩
    rw [← hdone.graft_withRecord]
    exact exec_graft (s.withRecord err eovf ecode) hp h

end Sys2Proof.Machine
end

section
/-! PROOFS. Reset and hazards (70_reset_and_hazards.md R361, R367; 10_state.md R53 to R55): a pending command is out of
reach of the ARG registers, and a reset turn leaves the reset values. -/

namespace Sys2Proof.Machine

/-! ## Latched operands (R367) -/

/-- The state with other values of the ARG registers. -/
def State.withArgs (s : State) (a0 a1 b0 b1 : Word) : State :=
  { s with arg0Lo := a0, arg0Hi := a1, arg1Lo := b0, arg1Hi := b1 }

theorem State.graft_withArgs_self (s : State) (a0 a1 b0 b1 : Word) :
    s.graft (s.withArgs a0 a1 b0 b1) = s.withArgs a0 a1 b0 b1 := rfl

theorem Performed.graft_withArgs {i : Instr} {p : Pending} {s t : State} (h : Performed i p s t) (a0 a1 b0 b1 : Word) :
    t.graft (s.withArgs a0 a1 b0 b1) = t.withArgs a0 a1 b0 b1 := by
  rw [h.frame]
  rfl

/-- Settles O22: the ARG registers are surroundings of a perform, which works on the operands of the latch. -/
theorem operandsAreLatched : Obligations.OperandsAreLatched := by
  intro i s t p a0 a1 b0 b1 hp h
  obtain ⟨-, hdone⟩ := exec_performed hp h
  have hgraft := exec_graft (s.withArgs a0 a1 b0 b1) hp h
  rwa [s.graft_withArgs_self, hdone.graft_withArgs] at hgraft

/-! ## Reset (R53 to R55, R361) -/

theorem State.resetBlock_lfc_get (s : State) (n : Inst) : s.resetBlock.lfc.get n = LfcInst.reset s.cfg := by
  cases n <;> rfl

theorem State.resetBlock_phx_get (s : State) (n : Inst) : s.resetBlock.phx.get n = PhxInst.reset s.cfg := by
  cases n <;> rfl

/-- A scheduled reset turn resets the block, and the rest of the schedule stays. -/
theorem step_reset {s : State} {ts : List Turn} (hwf : s.cfg.wf = true) (h : s.turns = .reset :: ts) :
    step s = .next (s.setTurns ts).resetBlock :=
  step_scheduled hwf h

/-- Settles O23: the registers, the record, the latch and the FIFO are those of `State.resetOf`, and every engine is
the one after reset of its unit. -/
theorem resetRule : Obligations.ResetRule := by
  intro s ts hwf h
  refine ⟨_, step_reset hwf h, rfl, rfl, rfl, rfl, rfl, rfl, rfl, rfl, rfl, rfl, rfl, fun n => ?_, fun n => ?_, rfl⟩
  · rw [State.resetBlock_lfc_get]
    exact ⟨rfl, rfl, rfl, rfl⟩
  · rw [State.resetBlock_phx_get]
    exact ⟨rfl, rfl, rfl, rfl, rfl⟩

end Sys2Proof.Machine
end
